-- ==== Sys2Proof/Word.lean ====
section
/-!
DEFINITION. Word.lean: the widths of the block's values. All of them are unsigned (`00_scope.md` R8).
-/

namespace Sys2Proof

/-- A transfer byte, a response byte or an entry of the Register Table (`20_memory.md` R31, R32). -/
abbrev Byte := BitVec 8

/-- The data of a 32-bit access to the watchdog window (`00_scope.md` R5 `ACCESS_BITS`). -/
abbrev Word := BitVec 32

/-- A time or a deadline: unsigned 64-bit nanoseconds of the Scheduler's virtual clock
(`10_state.md` R16; `92_eei_decisions.md` D4). -/
abbrev Time := BitVec 64

/-- An address of the Register Table, 0..216 (`10_state.md` R19, R22). -/
abbrev TableAddr := Fin 217

end Sys2Proof
end

