-- ==== Sys2Proof/Config.lean ====
section
/-!
DEFINITION. Config.lean: the constants the document fixes (`00_scope.md` R5) and the parameters it
leaves to the platform (`00_scope.md` R6). `REG0_DEFAULT` and `PR_READ_FORM` are arguments of
`State.instantiate` and stay in the state, so that every claim over all states ranges over them.
-/

namespace Sys2Proof.Config

/-- `KEY_ENABLE` (R5). -/
abbrev keyEnable : BitVec 16 := 0xCCCC
/-- `KEY_REFRESH` (R5). -/
abbrev keyRefresh : BitVec 16 := 0xAAAA
/-- `KEY_UNLOCK` (R5). -/
abbrev keyUnlock : BitVec 16 := 0x5555

/-- `RLR_RESET` (R5): the reload value after instantiation and after `reset()`. -/
abbrev rlrReset : BitVec 12 := 0xFFF

/-- `OFF_KR` (R5). -/
abbrev offKr : Nat := 0x00
/-- `OFF_PR` (R5). -/
abbrev offPr : Nat := 0x04
/-- `OFF_RLR` (R5). -/
abbrev offRlr : Nat := 0x08
/-- `OFF_SR` (R5). -/
abbrev offSr : Nat := 0x0C

/-- `TABLE_SIZE` (R5): the addresses of the Register Table are 0..216. -/
abbrev tableSize : Nat := 217

/-- `HDR_WRITE` (R5). -/
abbrev hdrWrite : Byte := 0x2F
/-- `HDR_READ` (R5). -/
abbrev hdrRead : Byte := 0xAF

/-- `STATUS_ADDR` (R5): the one address that is read in two phases. -/
abbrev statusAddr : TableAddr := 0x73

/-- `DECOY` (R5). -/
abbrev decoy : Byte := 0x41

/-- `NO_RESPONSE` (R5). -/
abbrev noResponse : Byte := 0x00

/-- `PR_READ_FORM` (R6): what a read of PR returns (`90_conflicts.md` C3). -/
inductive PrReadForm where
  /-- the 3-bit selector `prescalerRaw` (the spec's default, D2) -/
  | raw
  /-- the divider `4 << prescalerRaw` -/
  | derived
deriving DecidableEq, Repr

/-- `WDG_BASE` (R6, D10): where the platform maps the watchdog window. OPEN, so it has no value here;
the model addresses the window by offset and no operation depends on it. -/
opaque wdgBase : Nat

/-- The bus address at which the platform shows offset `off` of the watchdog window (R30). -/
def busAddress (off : Nat) : Nat := wdgBase + off

end Sys2Proof.Config
end

