-- ==== Sys2Proof/Machine/Inputs.lean ====
section
/-!
DEFINITION. Machine/Inputs.lean: what the four agents of `00_scope.md` R7 present to the block, what
the block hands back (`10_state.md` R27), and the decoder's sequencing state (`10_state.md` R25),
against which a transfer byte is decoded.
-/

namespace Sys2Proof.Machine

/-- The three values of `readPhase` (`10_state.md` R20). -/
inductive ReadPhase where
  | idle
  | awaitingDecoy
  | awaitingValue
deriving DecidableEq, Repr

/-- The decoder's sequencing state, which plays the part of a program counter (`10_state.md` R25):
what the next transfer byte will do. -/
structure Sequencing where
  /-- R18 -/
  pendingWrite : Bool
  /-- R18 -/
  pendingRead : Bool
  /-- R19 -/
  latchedAddress : Option TableAddr
  /-- R20 -/
  readPhase : ReadPhase
deriving DecidableEq, Repr

/-- Idle: both phase flags false, no latched address, `readPhase == Idle` (`00_scope.md` R9). -/
abbrev Sequencing.idle : Sequencing :=
  { pendingWrite := false, pendingRead := false, latchedAddress := none, readPhase := .idle }

/-- The widths a bus master may try; only 32 bits has a meaning (`20_memory.md` R37). -/
inductive AccessWidth where
  | w8
  | w16
  | w32
  | w64
deriving DecidableEq, Repr

/-- One access of the bus master to the watchdog window at a byte offset from `WDG_BASE`. `wdata` is
the word written; a read ignores it. The data of an access that is not 32 bits wide is not
represented, since such an access is refused (`20_memory.md` R37). -/
structure BusAccess where
  write : Bool
  width : AccessWidth
  offset : Nat
  wdata : Word
deriving DecidableEq, Repr

/-- The events of format EV, which have no bits (`30_encoding.md` R58). -/
inductive Event where
  | wdgReset
  | wdgExpire
  | spdReset
deriving DecidableEq, Repr

/-- One operation as an agent presents it: the three formats of `30_encoding.md` R50. -/
inductive Input where
  /-- format WB, from the bus master -/
  | bus (a : BusAccess)
  /-- format SB, from the serial controller -/
  | transfer (v : Byte)
  /-- format EV, from the Scheduler or the reset source -/
  | event (e : Event)
deriving DecidableEq, Repr

/-- The three operation formats (`30_encoding.md` R50). -/
inductive Format where
  | wb
  | sb
  | ev
deriving DecidableEq, Repr

/-- The format is known from the agent that performs the operation, never from the bits (R50). -/
def Input.format : Input → Format
  | .bus _ => .wb
  | .transfer _ => .sb
  | .event _ => .ev

/-- An operation with the Scheduler's `now` at its step: `T=<n>` of `30_encoding.md` R60. -/
structure Stimulus where
  time : Time
  input : Input
deriving DecidableEq, Repr

/-- Why an input is no operation of the block. -/
inductive DecodeError where
  /-- a bus access that is not 32 bits wide (`20_memory.md` R37, D8) -/
  | accessWidth
deriving DecidableEq, Repr

/-- Which half of an unmapped access a diagnostic records (`10_state.md` R27 (d)). -/
inductive DiagKind where
  | read
  | write
deriving DecidableEq, Repr

/-- The block's outputs (`10_state.md` R27). -/
inductive Output where
  /-- (a) the reset action -/
  | performResetAction
  /-- (b) the response byte of a transfer -/
  | response (b : Byte)
  /-- (c) the read data of a bus read -/
  | readData (w : Word)
  /-- (d) a diagnostic record of an access to an unmapped offset -/
  | diag (kind : DiagKind) (off : Nat)
deriving DecidableEq, Repr

end Sys2Proof.Machine
end

