-- ==== Sys2Proof/Syntax.lean ====
section
/-!
DEFINITION. Syntax.lean: the operations of the block, one constructor per row of
`spec/opcode_table.json` in the table's order (`30_encoding.md` R50, R53, R56, R58).
-/

namespace Sys2Proof

/-- An operation. A WB write carries the bits of `wdata` that its row does not fix (`hi` is
`wdata[31:16]` of a KR write, which no rule reads); an SB operation carries its byte `v` where the
row does not fix it; an EV operation carries nothing. -/
inductive Instr where
  /-- `KR_ENABLE` (R72) -/
  | krEnable (hi : BitVec 16)
  /-- `KR_REFRESH` (R73) -/
  | krRefresh (hi : BitVec 16)
  /-- `KR_UNLOCK` (R74) -/
  | krUnlock (hi : BitVec 16)
  /-- `KR_OTHER` (R75) -/
  | krOther (wdata : Word)
  /-- `PR_WRITE` (R76) -/
  | prWrite (wdata : Word)
  /-- `RLR_WRITE` (R77) -/
  | rlrWrite (wdata : Word)
  /-- `SR_WRITE` (R83) -/
  | srWrite (wdata : Word)
  /-- `KR_READ` (R82) -/
  | krRead
  /-- `PR_READ` (R78) -/
  | prRead
  /-- `RLR_READ` (R79) -/
  | rlrRead
  /-- `SR_READ` (R83) -/
  | srRead
  /-- `UNMAPPED_WRITE` (R35) -/
  | unmappedWrite (off : Nat) (wdata : Word)
  /-- `UNMAPPED_READ` (R35) -/
  | unmappedRead (off : Nat)
  /-- `HDR_WRITE` (R91) -/
  | hdrWrite
  /-- `HDR_READ` (R92) -/
  | hdrRead
  /-- `ADDR_OOR` (R97) -/
  | addrOor (v : Byte)
  /-- `ADDR_IMPLICIT_WRITE` (R94, R95) -/
  | addrImplicitWrite (v : Byte)
  /-- `ADDR_IMPLICIT_READ` (R94, R95) -/
  | addrImplicitRead (v : Byte)
  /-- `ADDR_LATCH` (R95) -/
  | addrLatch (v : Byte)
  /-- `DATA_COMMIT` (R98) -/
  | dataCommit (v : Byte)
  /-- `READ_DECOY` (R100) -/
  | readDecoy (v : Byte)
  /-- `READ_VALUE` (R101) -/
  | readValue (v : Byte)
  /-- `READ_SINGLE` (R102) -/
  | readSingle (v : Byte)
  /-- `PULSE_NOP` (R99) -/
  | pulseNop
  /-- `DATA_NOP` (R103) -/
  | dataNop (v : Byte)
  /-- `WDG_RESET` (R80) -/
  | wdgReset
  /-- `WDG_EXPIRE` (R81) -/
  | wdgExpire
  /-- `SPD_RESET` (R104) -/
  | spdReset
deriving DecidableEq, Repr

end Sys2Proof
end

