-- ==== Sys2Proof/Machine/Flags.lean ====
section
/-!
DEFINITION. Machine/Flags.lean: the tests on the decoder's phase flags and on a transfer byte, and the
conditions under which each serial operation is the one performed (`30_encoding.md` R56).
-/

namespace Sys2Proof.Machine

/-- The two bytes that are headers in every decoder state (`30_encoding.md` R59). -/
def isHeader (v : Byte) : Bool := v == Config.hdrWrite || v == Config.hdrRead

/-- The synchronization pulse: a zero byte while a nonzero address `a` is latched (R56, R99). -/
def isPulse (a : TableAddr) (v : Byte) : Bool := v == 0 && a != 0

/-- The commit test of `41_serial_decoder.md` R98, headers aside. -/
def Sequencing.commits (q : Sequencing) (v : Byte) : Bool :=
  match q.latchedAddress with
  | none => false
  | some a => q.pendingWrite && v.toNat != a.val && !isPulse a v

/-- A phase flag is set (R94). -/
def Sequencing.flagged (q : Sequencing) : Bool := q.pendingWrite || q.pendingRead

/-- The address latched is `a`. -/
def Sequencing.latchedIs (q : Sequencing) (a : TableAddr) : Bool := q.latchedAddress == some a

/-- The byte `v` clocks a pending read: it is no header, an address is latched under `pendingRead` and
the commit test fails (`41_serial_decoder.md` R96, R100 to R102). -/
def Sequencing.clocksRead (q : Sequencing) (v : Byte) : Bool :=
  !isHeader v && q.latchedAddress.isSome && q.pendingRead && !q.commits v

/-- The condition of each row of `30_encoding.md` R56 on the byte and on the sequencing state, one row
at a time as the rule of that row words it. The rows of the other formats have no such condition. -/
def Sequencing.selects (q : Sequencing) : Instr → Bool
  | .krEnable _ => true
  | .krRefresh _ => true
  | .krUnlock _ => true
  | .krOther _ => true
  | .prWrite _ => true
  | .rlrWrite _ => true
  | .srWrite _ => true
  | .krRead => true
  | .prRead => true
  | .rlrRead => true
  | .srRead => true
  | .unmappedWrite _ _ => true
  | .unmappedRead _ => true
  | .hdrWrite => true
  | .hdrRead => true
  | .addrOor v => q.latchedAddress.isNone && decide (Config.tableSize ≤ v.toNat)
  | .addrImplicitWrite v =>
      q.latchedAddress.isNone && !q.flagged && decide (v.toNat < Config.hdrWrite.toNat)
  | .addrImplicitRead v =>
      q.latchedAddress.isNone && !q.flagged && !isHeader v &&
        decide (Config.hdrWrite.toNat < v.toNat) && decide (v.toNat < Config.tableSize)
  | .addrLatch v =>
      q.latchedAddress.isNone && q.flagged && !isHeader v && decide (v.toNat < Config.tableSize)
  | .dataCommit v => !isHeader v && q.commits v
  | .readDecoy v =>
      q.clocksRead v && q.latchedIs Config.statusAddr && q.readPhase != .awaitingValue
  | .readValue v =>
      q.clocksRead v && q.latchedIs Config.statusAddr && q.readPhase == .awaitingValue
  | .readSingle v => q.clocksRead v && !q.latchedIs Config.statusAddr
  | .pulseNop =>
      q.latchedAddress.isSome && !q.latchedIs 0 && q.pendingWrite && !q.pendingRead
  | .dataNop v =>
      !isHeader v && q.latchedAddress.isSome && !q.pendingRead && !q.commits v &&
        !(v == 0 && !q.latchedIs 0 && q.pendingWrite)
  | .wdgReset => true
  | .wdgExpire => true
  | .spdReset => true

/-- When the Scheduler may deliver the expiry (`60_exceptions.md` R126):
`pendingExpiry == some(d)` and `now >= d`. -/
def expiryEnabled (pending : Option Time) (now : Time) : Bool :=
  match pending with
  | none => false
  | some d => decide (d ≤ now)

end Sys2Proof.Machine
end

