-- ==== Sys2Proof/Machine/Operands.lean ====
section
/-!
DEFINITION. Machine/Operands.lean: the operand fields of a bus write (`30_encoding.md` R52) and the
values the registers of the window read as (`10_state.md` R26).
-/

namespace Sys2Proof.Machine

/-- `key = wdata[15:0]` (R52). -/
def keyField (wdata : Word) : BitVec 16 := wdata.extractLsb' 0 16

/-- `wdata[31:16]` of a KR write, which is discarded (R52). -/
def keyIgnored (wdata : Word) : BitVec 16 := wdata.extractLsb' 16 16

/-- The word of a KR write with the given key and upper half. -/
def keyWord (hi key : BitVec 16) : Word := hi ++ key

/-- `praw = wdata[2:0]` (R52). -/
def prField (wdata : Word) : BitVec 3 := wdata.extractLsb' 0 3

/-- `rl = wdata[10:0]` (R52). -/
def rlField (wdata : Word) : BitVec 11 := wdata.extractLsb' 0 11

/-- The derived divider `prescaler = 4 << prescalerRaw` (`10_state.md` R13). -/
def prescaler (raw : BitVec 3) : Nat := 4 <<< raw.toNat

/-- The value of a PR read under each form (`40_watchdog.md` R78). -/
def prReadValue (form : Config.PrReadForm) (raw : BitVec 3) : Word :=
  match form with
  | .raw => raw.zeroExtend 32
  | .derived => BitVec.ofNat 32 (prescaler raw)

/-- The value of an RLR read, `zext_32(reloadRegister)` (`40_watchdog.md` R79). -/
def rlrReadValue (rl : BitVec 12) : Word := rl.zeroExtend 32

end Sys2Proof.Machine
end

