-- ==== Sys2Proof/WellFormed.lean ====
section
/-!
DEFINITION. WellFormed.lean: the checks on an operation's operands that its row of
`spec/opcode_table.json` puts on the bits alone; the conditions on the decoder's state are
`Sequencing.selects`.
-/

namespace Sys2Proof

/-- None of the three keys (`40_watchdog.md` R71, R75). -/
def isOtherKey (key : BitVec 16) : Bool :=
  key != Config.keyEnable && key != Config.keyRefresh && key != Config.keyUnlock

/-- No register of the window stands at this offset (`20_memory.md` R35). -/
def isUnmapped (off : Nat) : Bool :=
  off != Config.offKr && off != Config.offPr && off != Config.offRlr && off != Config.offSr

/-- The operands are ones the row's encoding admits (`30_encoding.md` R53, R56). -/
def Instr.wellFormed : Instr → Bool
  | .krEnable _ => true
  | .krRefresh _ => true
  | .krUnlock _ => true
  | .krOther wdata => isOtherKey (Machine.keyField wdata)
  | .prWrite _ => true
  | .rlrWrite _ => true
  | .srWrite _ => true
  | .krRead => true
  | .prRead => true
  | .rlrRead => true
  | .srRead => true
  | .unmappedWrite off _ => isUnmapped off
  | .unmappedRead off => isUnmapped off
  | .hdrWrite => true
  | .hdrRead => true
  | .addrOor v => decide (Config.tableSize ≤ v.toNat)
  | .addrImplicitWrite v => decide (v.toNat < Config.hdrWrite.toNat)
  | .addrImplicitRead v =>
      decide (Config.hdrWrite.toNat < v.toNat) && decide (v.toNat < Config.tableSize) &&
        v != Config.hdrRead
  | .addrLatch v => decide (v.toNat < Config.tableSize) && !Machine.isHeader v
  | .dataCommit v => !Machine.isHeader v && v != 0
  | .readDecoy v => !Machine.isHeader v
  | .readValue v => !Machine.isHeader v
  | .readSingle v => !Machine.isHeader v
  | .pulseNop => true
  | .dataNop v => !Machine.isHeader v
  | .wdgReset => true
  | .wdgExpire => true
  | .spdReset => true

/-- The offset fits the 12 bits the packed word of `30_encoding.md` R51 gives it. -/
def Instr.packable : Instr → Bool
  | .unmappedWrite off _ => decide (off < 2 ^ 12)
  | .unmappedRead off => decide (off < 2 ^ 12)
  | _ => true

/-- The one format of each operation (`30_encoding.md` R50, R53, R56, R58). -/
def Instr.format : Instr → Machine.Format
  | .krEnable _ => .wb
  | .krRefresh _ => .wb
  | .krUnlock _ => .wb
  | .krOther _ => .wb
  | .prWrite _ => .wb
  | .rlrWrite _ => .wb
  | .srWrite _ => .wb
  | .krRead => .wb
  | .prRead => .wb
  | .rlrRead => .wb
  | .srRead => .wb
  | .unmappedWrite _ _ => .wb
  | .unmappedRead _ => .wb
  | .hdrWrite => .sb
  | .hdrRead => .sb
  | .addrOor _ => .sb
  | .addrImplicitWrite _ => .sb
  | .addrImplicitRead _ => .sb
  | .addrLatch _ => .sb
  | .dataCommit _ => .sb
  | .readDecoy _ => .sb
  | .readValue _ => .sb
  | .readSingle _ => .sb
  | .pulseNop => .sb
  | .dataNop _ => .sb
  | .wdgReset => .ev
  | .wdgExpire => .ev
  | .spdReset => .ev

end Sys2Proof
end

