-- ==== Sys2Proof/Decode.lean ====
section
/-!
DEFINITION. Decode.lean: which operation an input is (`30_encoding.md` R51 to R58), and after it the
encoder. A transfer byte is decoded against the decoder's sequencing state (R55), so the decoder takes
that state as an argument.
-/

namespace Sys2Proof

open Machine

/-- The rows of KR by key (`40_watchdog.md` R71; `30_encoding.md` R53 rows 1 to 4). -/
def decodeKey (wdata : Word) : Instr :=
  if keyField wdata = Config.keyEnable then .krEnable (keyIgnored wdata)
  else if keyField wdata = Config.keyRefresh then .krRefresh (keyIgnored wdata)
  else if keyField wdata = Config.keyUnlock then .krUnlock (keyIgnored wdata)
  else .krOther wdata

/-- The rows of a 32-bit write by offset (R53; `20_memory.md` R34). -/
def decodeWrite (off : Nat) (wdata : Word) : Instr :=
  if off = Config.offKr then decodeKey wdata
  else if off = Config.offPr then .prWrite wdata
  else if off = Config.offRlr then .rlrWrite wdata
  else if off = Config.offSr then .srWrite wdata
  else .unmappedWrite off wdata

/-- The rows of a 32-bit read by offset (R53; `20_memory.md` R33). -/
def decodeRead (off : Nat) : Instr :=
  if off = Config.offKr then .krRead
  else if off = Config.offPr then .prRead
  else if off = Config.offRlr then .rlrRead
  else if off = Config.offSr then .srRead
  else .unmappedRead off

/-- Format WB: a 32-bit access is an operation, another width is none (`20_memory.md` R37). -/
def decodeBus (a : BusAccess) : Except DecodeError Instr :=
  match a.width with
  | .w32 => .ok (if a.write then decodeWrite a.offset a.wdata else decodeRead a.offset)
  | .w8 => .error .accessWidth
  | .w16 => .error .accessWidth
  | .w64 => .error .accessWidth

/-- Format SB: the first matching row of R56 names the operation. -/
def decodeByte (q : Sequencing) (v : Byte) : Instr :=
  if v = Config.hdrWrite then .hdrWrite
  else if v = Config.hdrRead then .hdrRead
  else match q.latchedAddress with
    | none =>
      if Config.tableSize ≤ v.toNat then .addrOor v
      else if !q.pendingWrite && !q.pendingRead then
        if v.toNat < Config.hdrWrite.toNat then .addrImplicitWrite v else .addrImplicitRead v
      else .addrLatch v
    | some a =>
      let pulse := v == 0 && a != 0
      if q.pendingWrite && v.toNat != a.val && !pulse then .dataCommit v
      else if q.pendingRead then
        if a = Config.statusAddr then
          if q.readPhase = .awaitingValue then .readValue v else .readDecoy v
        else .readSingle v
      else if pulse && q.pendingWrite then .pulseNop
      else .dataNop v

/-- Format EV, known from the agent and never from bits (R50, R58). -/
def decodeEvent : Event → Instr
  | .wdgReset => .wdgReset
  | .wdgExpire => .wdgExpire
  | .spdReset => .spdReset

/-- The operation an input is when the decoder's sequencing state is `q`. -/
def decode (q : Sequencing) : Input → Except DecodeError Instr
  | .bus a => decodeBus a
  | .transfer v => .ok (decodeByte q v)
  | .event e => .ok (decodeEvent e)

/-- The 45-bit packed word of format WB (R51): `op` in bit 44, `offset` in bits 43:32, `wdata` in bits
31:0, ignored when `op == 0`. -/
def unpackAccess (w : BitVec 45) : BusAccess :=
  let write := w.getLsbD 44
  { write := write
    width := .w32
    offset := (w.extractLsb' 32 12).toNat
    wdata := if write then w.extractLsb' 0 32 else 0 }

/-- The input whose bits are `w`, for the two formats that have bits (R51, R54). The 45-bit word of
format WB stands in six bytes whose three top bits are zero. -/
def inputOfBits (nbits w : Nat) : Option Input :=
  if 40 < nbits ∧ nbits ≤ 48 then
    if w < 2 ^ 45 then some (.bus (unpackAccess (BitVec.ofNat 45 w))) else none
  else if 0 < nbits ∧ nbits ≤ 8 then
    if w < 2 ^ 8 then some (.transfer (BitVec.ofNat 8 w)) else none
  else none

/-- The operation the decoder reads from the bits `w` right after reset, where the serial decoder is
idle: a transfer byte alone names no row (R55, R56). Format EV has no bits (R58). -/
def decodeTableWord (nbits w : Nat) : Option Instr :=
  match inputOfBits nbits w with
  | none => none
  | some inp =>
    match decode Sequencing.idle inp with
    | .ok i => some i
    | .error _ => none

/-- A 32-bit write of `wdata` at `off`. -/
def writeAccess (off : Nat) (wdata : Word) : Input :=
  .bus { write := true, width := .w32, offset := off, wdata := wdata }

/-- A 32-bit read at `off`; its `wdata` is zero, as in the canonical packing (R51). -/
def readAccess (off : Nat) : Input :=
  .bus { write := false, width := .w32, offset := off, wdata := 0 }

/-- The input that performs an operation (R53, R56, R58). -/
def encode : Instr → Input
  | .krEnable hi => writeAccess Config.offKr (keyWord hi Config.keyEnable)
  | .krRefresh hi => writeAccess Config.offKr (keyWord hi Config.keyRefresh)
  | .krUnlock hi => writeAccess Config.offKr (keyWord hi Config.keyUnlock)
  | .krOther wdata => writeAccess Config.offKr wdata
  | .prWrite wdata => writeAccess Config.offPr wdata
  | .rlrWrite wdata => writeAccess Config.offRlr wdata
  | .srWrite wdata => writeAccess Config.offSr wdata
  | .krRead => readAccess Config.offKr
  | .prRead => readAccess Config.offPr
  | .rlrRead => readAccess Config.offRlr
  | .srRead => readAccess Config.offSr
  | .unmappedWrite off wdata => writeAccess off wdata
  | .unmappedRead off => readAccess off
  | .hdrWrite => .transfer Config.hdrWrite
  | .hdrRead => .transfer Config.hdrRead
  | .addrOor v => .transfer v
  | .addrImplicitWrite v => .transfer v
  | .addrImplicitRead v => .transfer v
  | .addrLatch v => .transfer v
  | .dataCommit v => .transfer v
  | .readDecoy v => .transfer v
  | .readValue v => .transfer v
  | .readSingle v => .transfer v
  | .pulseNop => .transfer 0
  | .dataNop v => .transfer v
  | .wdgReset => .event .wdgReset
  | .wdgExpire => .event .wdgExpire
  | .spdReset => .event .spdReset

/-- The packed word of a 32-bit bus access at an offset of at most `0xFFF` (R51, R62). The spec gives no
word to another access; this function cuts a larger offset to 12 bits and drops the width, so what it
answers there is the word of another operation (DESIGN CHOICE, notes/assumptions/21.md) and
`bitsOfInput` does not use it. -/
def packAccess (a : BusAccess) : BitVec 45 :=
  BitVec.ofBool a.write ++ (BitVec.ofNat 12 a.offset ++ a.wdata)

/-- How many bits an input has, in whole bytes, and which they are. There are none for format EV (R58),
nor for an access that has no packed word (R51; notes/assumptions/21.md). -/
def bitsOfInput : Input → Option (Nat × Nat)
  | .bus a =>
    if a.width = .w32 ∧ a.offset < 2 ^ 12 then some (48, (packAccess a).toNat) else none
  | .transfer v => some (8, v.toNat)
  | .event _ => none

end Sys2Proof
end

