-- ==== Sys2Proof/Machine/State.lean ====
section
/-!
DEFINITION. Machine/State.lean: every piece of state of the block (`10_state.md`), one record per
engine, and beside them the parameters and inputs of the step relation, as plain data.
-/

namespace Sys2Proof.Machine

/-- The Watchdog Engine's state, `WatchdogConfig` and the one pending expiry (`10_state.md` section 1). -/
structure Watchdog where
  /-- R10: counting is active -/
  enabled : Bool
  /-- R11: whether expiry triggers the reset action -/
  rebootOnExpiry : Bool
  /-- R12: gates writes to PR and RLR -/
  unlocked : Bool
  /-- R13: the prescaler is `4 << prescalerRaw` -/
  prescalerRaw : BitVec 3
  /-- R14: 12 bits are stored, 11 are writable (`90_conflicts.md` C1) -/
  reloadRegister : BitVec 12
  /-- R15: a previous countdown expired -/
  lastExpiryFlag : Bool
  /-- R16: the deadline of the single outstanding timer -/
  pendingExpiry : Option Time
deriving DecidableEq, Repr

/-- Bytes by address in one canonical form: addresses strictly rising, no entry equal to what an
unlisted address reads as (`Memory.wf` in Machine/Ops.lean). -/
abbrev Memory := List Host.Cell

/-- The Serial Protocol Decoder's state (`10_state.md` section 2). -/
structure Decoder where
  /-- R18, R19, R20, R25 -/
  seq : Sequencing
  /-- R21: unobservable scratch of the two-phase read -/
  decoyHolder : Byte
  /-- R22: the Register Table, addresses 0..216 -/
  regs : Memory
deriving DecidableEq, Repr

/-- The machine: one instance of each engine (R24), and the parameters and inputs of its step
relation, which `10_state.md` calls inputs and not state of the block. -/
structure State where
  wdg : Watchdog
  spd : Decoder
  /-- the parameter `PR_READ_FORM` (`00_scope.md` R6); no operation changes it -/
  prReadForm : Config.PrReadForm
  /-- the parameter `REG0_DEFAULT` (`00_scope.md` R6); no operation changes it -/
  reg0Default : Byte
  /-- the Scheduler's virtual clock (`00_scope.md` R6) -/
  now : Time
  /-- the model's own field: the operations the agents have yet to perform, in the order of their
  steps -/
  inputs : List Stimulus
  /-- the model's own field: every output so far (R27), newest first -/
  outputs : List Output
deriving DecidableEq, Repr

/-- The model-level fault of `60_exceptions.md` R122; the block itself raises none (R120). -/
inductive Fault where
  /-- Raised by `ADDR_OOR` alone: a byte 217..255 arrived where an address was expected and the spec
  gives it no meaning (`41_serial_decoder.md` R97). Safe: nothing is claimed of the decoder after it. -/
  | addrOutOfRange
deriving DecidableEq, Repr

/-- Inputs outside the admitted operations (`60_exceptions.md` R122). Each is safe: a run that holds
one has no claim made about it. -/
inductive Refusal where
  /-- Raised by an arm of `exec` whose instruction has no meaning yet. Safe. -/
  | notModelled (mnemonic : String)
  /-- Raised by `step`: a bus access that is not 32 bits wide (`20_memory.md` R37, D8). Safe. -/
  | accessWidth
  /-- Raised by `KR_ENABLE` and `KR_REFRESH`: `now + period` is above 2^64 - 1
  (`40_watchdog.md` R72, R85, D4). Safe. -/
  | deadlineOverflow
  /-- Raised by `WDG_EXPIRE` where `60_exceptions.md` R126 does not enable it: no such step exists. Safe. -/
  | expiryNotEnabled
  /-- Raised by `step`: a stimulus stamped before the current time (R126 (d)). Safe. -/
  | timeReversed
  /-- Raised by the meaning of a serial operation in a state in which `30_encoding.md` R56 selects
  another row for its byte; `step` never presents one. Safe. -/
  | notSelected
deriving DecidableEq, Repr

/-- The three outcomes of a step of this machine. -/
abbrev Outcome := Host.Outcome State Fault Refusal

/-- The watchdog at instantiation (`10_state.md` R28, `70_reset_and_hazards.md` R140).
`lastExpiryFlag` is the spec's decision D3. -/
def Watchdog.instantiated : Watchdog :=
  { enabled := false, rebootOnExpiry := false, unlocked := false, prescalerRaw := 0,
    reloadRegister := Config.rlrReset, lastExpiryFlag := false, pendingExpiry := none }

/-- The decoder at construction (`10_state.md` R28): nothing is listed in its table, so every entry
reads as its value at instantiation. -/
def Decoder.instantiated : Decoder :=
  { seq := Sequencing.idle, decoyHolder := 0, regs := [] }

/-- Instantiation with the two parameters of `00_scope.md` R6 as arguments (`70_reset_and_hazards.md`
R140). -/
def State.instantiate (reg0 : Byte) (form : Config.PrReadForm) : State :=
  { wdg := Watchdog.instantiated, spd := Decoder.instantiated, prReadForm := form, reg0Default := reg0,
    now := 0, inputs := [], outputs := [] }

/-- The machine right after power-on, which is instantiation (D24), under the parameters of
`95_test_vectors.md`: `PR_READ_FORM = raw` (the default, D2) and `REG0_DEFAULT = 0`
(DESIGN CHOICE, notes/assumptions/6.md). -/
def State.reset : State := State.instantiate 0 .raw

end Sys2Proof.Machine
end

