-- ==== Sys2Proof/Machine/Ops.lean ====
section
/-!
DEFINITION. Machine/Ops.lean: the operations the meanings share: the Register Table, outputs, the
watchdog's period and deadline, the two `reset()` operations, the expiry (the block's one trap-like
event, `60_exceptions.md` R124, R125), and the latch of an address.
-/

namespace Sys2Proof.Machine

/-! The Register Table (`10_state.md` R22). -/

/-- What an address of the Register Table reads as when nothing is listed for it: its value at
instantiation, `REG0_DEFAULT` at address 0 and 0 elsewhere (R22, R28). -/
def Memory.unlisted (reg0 : Byte) (a : Nat) : Byte := if a = 0 then reg0 else 0

/-- The entry listed for `a`. -/
def Memory.lookup : Memory → Nat → Option Byte
  | [], _ => none
  | (b, v) :: m, a => if a = b then some v else Memory.lookup m a

/-- The byte at address `a`. -/
def Memory.read (reg0 : Byte) (m : Memory) (a : Nat) : Byte :=
  (Memory.lookup m a).getD (Memory.unlisted reg0 a)

/-- List `v` for `a`, in order of address. -/
def Memory.insert : Memory → Nat → Byte → Memory
  | [], a, v => [(a, v)]
  | (b, w) :: m, a, v =>
      if a < b then (a, v) :: (b, w) :: m
      else if a = b then (a, v) :: m
      else (b, w) :: Memory.insert m a v

/-- List nothing for `a`. -/
def Memory.erase : Memory → Nat → Memory
  | [], _ => []
  | (b, w) :: m, a => if a = b then Memory.erase m a else (b, w) :: Memory.erase m a

/-- Store `v` at address `a`, keeping the canonical form. -/
def Memory.write (reg0 : Byte) (m : Memory) (a : Nat) (v : Byte) : Memory :=
  if v = Memory.unlisted reg0 a then Memory.erase m a else Memory.insert m a v

/-- The canonical form from address `lo` on: addresses of the table, strictly rising, none listed with
the value an unlisted address reads as. -/
def Memory.wfFrom (reg0 : Byte) : Nat → Memory → Bool
  | _, [] => true
  | lo, (a, v) :: m =>
      decide (lo ≤ a) && decide (a < Config.tableSize) && v != Memory.unlisted reg0 a &&
        Memory.wfFrom reg0 (a + 1) m

/-- The canonical form. -/
def Memory.wf (reg0 : Byte) (m : Memory) : Bool := Memory.wfFrom reg0 0 m

/-- `regs[a]` (`00_scope.md` R8). -/
def State.tableRead (s : State) (a : Nat) : Byte := Memory.read s.reg0Default s.spd.regs a

/-- `regs[a] <- v` (`00_scope.md` R8). -/
def State.tableWrite (s : State) (a : TableAddr) (v : Byte) : State :=
  { s with spd := { s.spd with regs := Memory.write s.reg0Default s.spd.regs a.val v } }

/-! Outputs (`10_state.md` R27). -/

/-- Record an output. -/
def State.emit (s : State) (o : Output) : State := { s with outputs := o :: s.outputs }

/-- End a transfer with its response byte (`41_serial_decoder.md` R90). -/
def State.respond (s : State) (b : Byte) : State := s.emit (.response b)

/-- End a bus read with its data. -/
def State.answer (s : State) (w : Word) : State := s.emit (.readData w)

/-! The watchdog's period and deadline (`40_watchdog.md` R70, R85). -/

/-- `ns_per_count = floor(1_000_000 * prescaler / 40)` (R70). -/
def nsPerCount (raw : BitVec 3) : Nat := 1000000 * prescaler raw / 40

/-- `period_ns(raw, rl)` (R70). -/
def periodNs (raw : BitVec 3) (rl : BitVec 12) : Nat := nsPerCount raw * rl.toNat

/-- `now + period_ns(prescalerRaw, reloadRegister)` as a 64-bit time, or none where the sum exceeds
2^64 - 1 (R85; D4). -/
def Watchdog.deadline (w : Watchdog) (now : Time) : Option Time :=
  let d := now.toNat + periodNs w.prescalerRaw w.reloadRegister
  if d < 2 ^ 64 then some (BitVec.ofNat 64 d) else none

/-- Install the deadline computed from the present configuration and time in the watchdog `w`,
replacing any earlier one in a single write (`20_memory.md` R38). -/
def State.schedule (s : State) (w : Watchdog) : Outcome :=
  match s.wdg.deadline s.now with
  | some d => .next { s with wdg := { w with pendingExpiry := some d } }
  | none => .refused .deadlineOverflow

/-- The watchdog's `reset()` (R80): every field but `lastExpiryFlag`. -/
def Watchdog.reset (w : Watchdog) : Watchdog :=
  { w with
    pendingExpiry := none
    enabled := false
    rebootOnExpiry := false
    prescalerRaw := 0
    reloadRegister := Config.rlrReset
    unlocked := false }

/-- `onExpiry()` (R81, `60_exceptions.md` R125): consume the pending expiry; if `rebootOnExpiry`, set
the latch, emit the reset action once and reset; else nothing more. -/
def State.takeExpiry (s : State) : State :=
  if s.wdg.rebootOnExpiry then
    { s.emit .performResetAction with wdg := Watchdog.reset { s.wdg with lastExpiryFlag := true } }
  else
    { s with wdg := { s.wdg with pendingExpiry := none } }

/-! The decoder (`41_serial_decoder.md`). -/

/-- `toIdle()` (R93), which ends every transaction. -/
def Decoder.toIdle (d : Decoder) : Decoder := { d with seq := Sequencing.idle, decoyHolder := 0 }

/-- `toIdle()` on the whole state. -/
def State.toIdle (s : State) : State := { s with spd := s.spd.toIdle }

/-- Replace the sequencing state. -/
def State.withSeq (s : State) (q : Sequencing) : State := { s with spd := { s.spd with seq := q } }

/-- What latching address `a` makes of the sequencing state (R95): the phase turns to AwaitingDecoy
when `0x73` is latched under `pendingRead` (D16). -/
def Sequencing.latch (q : Sequencing) (a : TableAddr) : Sequencing :=
  { q with
    latchedAddress := some a
    readPhase := if q.pendingRead && a == Config.statusAddr then .awaitingDecoy else q.readPhase }

/-- The latch of an address byte (R95), on a state whose direction flags are `q`'s. A byte above 216
has no meaning (R97). -/
def State.latchAddress (s : State) (q : Sequencing) (v : Byte) : Outcome :=
  if h : v.toNat < Config.tableSize then
    .next ((s.withSeq (q.latch ⟨v.toNat, h⟩)).respond Config.noResponse)
  else .fault .addrOutOfRange

/-- The one-phase read and the value phase of the two-phase read (R101, R102): the response is
`regs[a]` of the latched address, and the decoder returns to idle. -/
def State.readLatched (s : State) (a : TableAddr) : State :=
  s.toIdle.respond (s.tableRead a.val)

/-- Perform a serial operation on the latched address. Nothing latched: the operation is not the one
R56 selects. -/
def State.onLatched (s : State) (f : TableAddr → State) : Outcome :=
  match s.spd.seq.latchedAddress with
  | some a => .next (f a)
  | none => .refused .notSelected

/-- Perform `o` where `30_encoding.md` R56 selects the serial operation `i` in state `s`. -/
def State.ifSelected (s : State) (i : Instr) (o : Outcome) : Outcome :=
  if s.spd.seq.selects i then o else .refused .notSelected

end Sys2Proof.Machine
end

