-- ==== Sys2Proof/Machine/ConfigRegisters.lean ====
section
/-!
DEFINITION. Machine/ConfigRegisters.lean: the accesses to PR, RLR and SR and to unmapped offsets
(`40_watchdog.md` R76 to R79, R83; `20_memory.md` R35).
-/

namespace Sys2Proof.Machine

/-- `PR_WRITE` (R76): applied only while unlocked; a pending deadline is not re-timed (R44). -/
def execPrWrite (wdata : Word) (s : State) : Outcome :=
  if s.wdg.unlocked then .next { s with wdg := { s.wdg with prescalerRaw := prField wdata } }
  else .next s

/-- `RLR_WRITE` (R77): applied only while unlocked; the 11-bit value is stored zero-extended. -/
def execRlrWrite (wdata : Word) (s : State) : Outcome :=
  if s.wdg.unlocked then
    .next { s with wdg := { s.wdg with reloadRegister := (rlField wdata).zeroExtend 12 } }
  else .next s

/-- `SR_WRITE` (R83): dropped, without a diagnostic (D6). -/
def execSrWrite (_wdata : Word) (s : State) : Outcome := .next s

/-- `PR_READ` (R78), in the form the parameter `PR_READ_FORM` gives. -/
def execPrRead (s : State) : Outcome := .next (s.answer (prReadValue s.prReadForm s.wdg.prescalerRaw))

/-- `RLR_READ` (R79). -/
def execRlrRead (s : State) : Outcome := .next (s.answer (rlrReadValue s.wdg.reloadRegister))

/-- `SR_READ` (R83): SR reads as 0. -/
def execSrRead (s : State) : Outcome := .next (s.answer 0)

/-- `UNMAPPED_WRITE` (R35): dropped, with a diagnostic (D7). -/
def execUnmappedWrite (off : Nat) (_wdata : Word) (s : State) : Outcome :=
  .next (s.emit (.diag .write off))

/-- `UNMAPPED_READ` (R35): reads as 0, with a diagnostic. -/
def execUnmappedRead (off : Nat) (s : State) : Outcome :=
  .next ((s.emit (.diag .read off)).answer 0)

end Sys2Proof.Machine
end

