-- ==== Sys2Proof/Machine/Events.lean ====
section
/-!
DEFINITION. Machine/Events.lean: the events of format EV (`40_watchdog.md` R80, R81;
`41_serial_decoder.md` R104).
-/

namespace Sys2Proof.Machine

/-- `WDG_RESET` (R80): the watchdog's `reset()` from the reset source, in any state. -/
def execWdgReset (s : State) : Outcome := .next { s with wdg := s.wdg.reset }

/-- `WDG_EXPIRE` (R81): the Scheduler's delivery of the expiry, where `60_exceptions.md` R126 enables
it. -/
def execWdgExpire (s : State) : Outcome :=
  if expiryEnabled s.wdg.pendingExpiry s.now then .next s.takeExpiry else .refused .expiryNotEnabled

/-- `SPD_RESET` (R104): the decoder's `reset()`, in any state; the Register Table survives. -/
def execSpdReset (s : State) : Outcome := .next s.toIdle

end Sys2Proof.Machine
end

