-- ==== Sys2Proof/Machine/KeyRegister.lean ====
section
/-!
DEFINITION. Machine/KeyRegister.lean: the accesses to KR, the key protocol (`40_watchdog.md` R71 to
R75, R82). The upper half of a KR write is an operand that no rule reads (`30_encoding.md` R52).
-/

namespace Sys2Proof.Machine

/-- `KR_ENABLE` (R72): arm, or re-time while armed; it needs no unlock. -/
def execKrEnable (_hi : BitVec 16) (s : State) : Outcome :=
  s.schedule { s.wdg with enabled := true, rebootOnExpiry := true }

/-- `KR_REFRESH` (R73): re-time while armed, nothing while disabled. -/
def execKrRefresh (_hi : BitVec 16) (s : State) : Outcome :=
  if s.wdg.enabled then s.schedule s.wdg else .next s

/-- `KR_UNLOCK` (R74). -/
def execKrUnlock (_hi : BitVec 16) (s : State) : Outcome :=
  .next { s with wdg := { s.wdg with unlocked := true } }

/-- `KR_OTHER` (R75): ignored, not an error. -/
def execKrOther (_wdata : Word) (s : State) : Outcome := .next s

/-- `KR_READ` (R82): KR reads as 0. -/
def execKrRead (s : State) : Outcome := .next (s.answer 0)

end Sys2Proof.Machine
end

