-- ==== Sys2Proof/Machine/SerialAddress.lean ====
section
/-!
DEFINITION. Machine/SerialAddress.lean: header bytes and address bytes of a serial transaction
(`41_serial_decoder.md` R91, R92, R94, R95, R97).
-/

namespace Sys2Proof.Machine

/-- `HDR_WRITE` (R91): a header in every state, with one effect. -/
def execHdrWrite (s : State) : Outcome :=
  .next ((s.withSeq { s.spd.seq with pendingWrite := true }).respond Config.noResponse)

/-- `HDR_READ` (R92): a header in every state, with one effect. -/
def execHdrRead (s : State) : Outcome :=
  .next ((s.withSeq { s.spd.seq with pendingRead := true }).respond Config.noResponse)

/-- `ADDR_OOR` (R97): the spec gives the input no meaning. -/
def execAddrOor (v : Byte) (s : State) : Outcome :=
  s.ifSelected (.addrOor v) (.fault .addrOutOfRange)

/-- `ADDR_IMPLICIT_WRITE` (R94 then R95): as if a write header had been seen. -/
def execAddrImplicitWrite (v : Byte) (s : State) : Outcome :=
  s.ifSelected (.addrImplicitWrite v) (s.latchAddress { s.spd.seq with pendingWrite := true } v)

/-- `ADDR_IMPLICIT_READ` (R94 then R95): as if a read header had been seen. -/
def execAddrImplicitRead (v : Byte) (s : State) : Outcome :=
  s.ifSelected (.addrImplicitRead v) (s.latchAddress { s.spd.seq with pendingRead := true } v)

/-- `ADDR_LATCH` (R95): the direction is that of the header already seen. -/
def execAddrLatch (v : Byte) (s : State) : Outcome :=
  s.ifSelected (.addrLatch v) (s.latchAddress s.spd.seq v)

end Sys2Proof.Machine
end

