-- ==== Sys2Proof/Machine/SerialData.lean ====
section
/-!
DEFINITION. Machine/SerialData.lean: the bytes that follow the address of a serial transaction
(`41_serial_decoder.md` R98 to R103).
-/

namespace Sys2Proof.Machine

/-- `DATA_COMMIT` (R98): the block's only store, then idle. -/
def execDataCommit (v : Byte) (s : State) : Outcome :=
  s.ifSelected (.dataCommit v)
    (s.onLatched fun a => (s.tableWrite a v).toIdle.respond Config.noResponse)

/-- `READ_DECOY` (R100): the first phase of a read of `0x73`. The clock byte's value is not used. -/
def execReadDecoy (v : Byte) (s : State) : Outcome :=
  s.ifSelected (.readDecoy v)
    (.next (State.respond
      { s with
        spd := { s.spd with
          seq := { s.spd.seq with readPhase := .awaitingValue }
          decoyHolder := s.tableRead Config.statusAddr.val } }
      Config.decoy))

/-- `READ_VALUE` (R101): the second phase of a read of `0x73`. -/
def execReadValue (v : Byte) (s : State) : Outcome :=
  s.ifSelected (.readValue v) (.next (s.readLatched Config.statusAddr))

/-- `READ_SINGLE` (R102): the read of any other address. -/
def execReadSingle (v : Byte) (s : State) : Outcome :=
  s.ifSelected (.readSingle v) (s.onLatched s.readLatched)

/-- `PULSE_NOP` (R99): a synchronization pulse in a write phase changes no state (D15). -/
def execPulseNop (s : State) : Outcome :=
  s.ifSelected .pulseNop (.next (s.respond Config.noResponse))

/-- `DATA_NOP` (R103): a byte that neither commits nor clocks changes no state. -/
def execDataNop (v : Byte) (s : State) : Outcome :=
  s.ifSelected (.dataNop v) (.next (s.respond Config.noResponse))

end Sys2Proof.Machine
end

