-- ==== Sys2Proof/Machine/Dispatch.lean ====
section
/-!
DEFINITION. Machine/Dispatch.lean: one arm per operation.
-/

namespace Sys2Proof.Machine

def exec (i : Instr) (s : State) : Host.Outcome State Fault Refusal :=
  match i with
  | .krEnable hi => Sys2Proof.Machine.execKrEnable hi s
  | .krRefresh hi => Sys2Proof.Machine.execKrRefresh hi s
  | .krUnlock hi => Sys2Proof.Machine.execKrUnlock hi s
  | .krOther wdata => Sys2Proof.Machine.execKrOther wdata s
  | .prWrite wdata => Sys2Proof.Machine.execPrWrite wdata s
  | .rlrWrite wdata => Sys2Proof.Machine.execRlrWrite wdata s
  | .srWrite wdata => Sys2Proof.Machine.execSrWrite wdata s
  | .krRead => Sys2Proof.Machine.execKrRead s
  | .prRead => Sys2Proof.Machine.execPrRead s
  | .rlrRead => Sys2Proof.Machine.execRlrRead s
  | .srRead => Sys2Proof.Machine.execSrRead s
  | .unmappedWrite off wdata => Sys2Proof.Machine.execUnmappedWrite off wdata s
  | .unmappedRead off => Sys2Proof.Machine.execUnmappedRead off s
  | .hdrWrite => Sys2Proof.Machine.execHdrWrite s
  | .hdrRead => Sys2Proof.Machine.execHdrRead s
  | .addrOor v => Sys2Proof.Machine.execAddrOor v s
  | .addrImplicitWrite v => Sys2Proof.Machine.execAddrImplicitWrite v s
  | .addrImplicitRead v => Sys2Proof.Machine.execAddrImplicitRead v s
  | .addrLatch v => Sys2Proof.Machine.execAddrLatch v s
  | .dataCommit v => Sys2Proof.Machine.execDataCommit v s
  | .readDecoy v => Sys2Proof.Machine.execReadDecoy v s
  | .readValue v => Sys2Proof.Machine.execReadValue v s
  | .readSingle v => Sys2Proof.Machine.execReadSingle v s
  | .pulseNop => Sys2Proof.Machine.execPulseNop s
  | .dataNop v => Sys2Proof.Machine.execDataNop v s
  | .wdgReset => Sys2Proof.Machine.execWdgReset s
  | .wdgExpire => Sys2Proof.Machine.execWdgExpire s
  | .spdReset => Sys2Proof.Machine.execSpdReset s

end Sys2Proof.Machine
end

