-- ==== Sys2Proof/Machine/Step.lean ====
section
/-!
DEFINITION. Machine/Step.lean: one atomic step of the block (`00_scope.md` R7; `20_memory.md` R38, R40):
the next stimulus of the agents is decoded against the decoder's state and performed.
-/

namespace Sys2Proof.Machine

/-- How a step refuses an input that is no operation. -/
def refusalOf : DecodeError → Refusal
  | .accessWidth => .accessWidth

/-- The state in which an operation is performed: its stimulus is taken from the list and the
Scheduler's clock stands at its time. -/
def State.take (s : State) (t : Time) (rest : List Stimulus) : State :=
  { s with now := t, inputs := rest }

/-- One step. With no stimulus left no agent acts and nothing changes (notes/assumptions/2.md). Time never
decreases from one step to the next (`60_exceptions.md` R126 (d)). -/
def step (s : State) : Host.Outcome State Fault Refusal :=
  match s.inputs with
  | [] => .next s
  | e :: rest =>
    if s.now ≤ e.time then
      match decode s.spd.seq e.input with
      | .ok i => exec i (s.take e.time rest)
      | .error r => .refused (refusalOf r)
    else .refused .timeReversed

/-- The operation with bits `w` put before every other stimulus, at the present time. -/
def State.withFetchWord (s : State) (nbits w : Nat) : State :=
  match inputOfBits nbits w with
  | some inp => { s with inputs := { time := s.now, input := inp } :: s.inputs }
  | none => s

end Sys2Proof.Machine
end

