-- ==== Sys2Proof/Machine/DownCounter.lean ====
section
/-!
DEFINITION. Machine/DownCounter.lean: the equivalent down-counter view of the watchdog
(`40_watchdog.md` R86). No register exposes it and the machine does not run it; the deadline form is
the normative one.
-/

namespace Sys2Proof.Machine

/-- A counter and the divider that paces it. -/
structure DownCounter where
  divider : Nat
  count : Nat
deriving DecidableEq, Repr

/-- One cycle of the 40 kHz clock, in nanoseconds. -/
def lsiCycleNs : Nat := 1000000000 / 40000

/-- A load: the divider restarts. -/
def DownCounter.load (rl : Nat) : DownCounter := { divider := 0, count := rl }

/-- One cycle of the clock: the counter is decremented once every `p` cycles. -/
def DownCounter.tick (p : Nat) (c : DownCounter) : DownCounter :=
  if c.divider + 1 = p then { divider := 0, count := c.count - 1 }
  else { divider := c.divider + 1, count := c.count }

/-- The counter `n` cycles after a load of `rl`. -/
def DownCounter.afterCycles (p rl : Nat) : Nat → DownCounter
  | 0 => DownCounter.load rl
  | n + 1 => (DownCounter.afterCycles p rl n).tick p

end Sys2Proof.Machine
end

