-- ==== Sys2Proof/Machine/EntryPoints.lean ====
section
/-!
DEFINITION. Machine/EntryPoints.lean: the document's entry points, each in one piece as the spec gives
it, independent of the rows of the opcode table: `onTransferByte` (`41_serial_decoder.md` R105),
`writeKey` (`40_watchdog.md` R71), `MemRead` and `MemWrite` (`20_memory.md` R33, R34). The machine does
not run them; statements say that it agrees with them.
-/

namespace Sys2Proof.Machine

/-- `onTransferByte(v)` (R105): the decoder after the transfer and the response byte, or none where the
address is out of range. `reg0` is the parameter `REG0_DEFAULT`. -/
def onTransferByte (reg0 : Byte) (d : Decoder) (v : Byte) : Option (Decoder × Byte) :=
  let q := d.seq
  if v.toNat = 0x2F then some ({ d with seq := { q with pendingWrite := true } }, 0x00)
  else if v.toNat = 0xAF then some ({ d with seq := { q with pendingRead := true } }, 0x00)
  else match q.latchedAddress with
    | none =>
      let neither := q.pendingWrite = false ∧ q.pendingRead = false
      let pw := if neither ∧ v.toNat < 0x2F then true else q.pendingWrite
      let pr := if neither ∧ ¬ v.toNat < 0x2F then true else q.pendingRead
      if h : v.toNat ≤ 216 then
        some
          ({ d with
              seq :=
                { pendingWrite := pw
                  pendingRead := pr
                  latchedAddress := some ⟨v.toNat, Nat.lt_succ_of_le h⟩
                  readPhase :=
                    if pr = true ∧ v.toNat = 0x73 then .awaitingDecoy else q.readPhase } },
            0x00)
      else none
    | some a =>
      if q.pendingWrite = true ∧ v.toNat ≠ a.val ∧ ¬ (v.toNat = 0 ∧ a.val ≠ 0) then
        some
          ({ seq := Sequencing.idle
             decoyHolder := 0
             regs := Memory.write reg0 d.regs a.val v },
            0x00)
      else if q.pendingRead = true then
        if a.val = 0x73 ∧ q.readPhase ≠ .awaitingValue then
          some
            ({ d with
                seq := { q with readPhase := .awaitingValue }
                decoyHolder := Memory.read reg0 d.regs 0x73 },
              0x41)
        else
          some
            ({ seq := Sequencing.idle, decoyHolder := 0, regs := d.regs },
              Memory.read reg0 d.regs a.val)
      else some (d, 0x00)

/-- The period of `40_watchdog.md` R70 written out, from the present configuration. -/
def Watchdog.periodNow (w : Watchdog) : Nat :=
  1000000 * (4 * 2 ^ w.prescalerRaw.toNat) / 40 * w.reloadRegister.toNat

/-- `writeKey(key)` (R71) at time `now`, or none where `now + period` exceeds 2^64 - 1 (D4). -/
def Watchdog.writeKey (w : Watchdog) (now : Time) (key : BitVec 16) : Option Watchdog :=
  let d := now.toNat + w.periodNow
  if key.toNat = 0xCCCC then
    if d ≤ 2 ^ 64 - 1 then
      some { w with
        enabled := true, rebootOnExpiry := true, pendingExpiry := some (BitVec.ofNat 64 d) }
    else none
  else if key.toNat = 0xAAAA then
    if w.enabled = true then
      if d ≤ 2 ^ 64 - 1 then some { w with pendingExpiry := some (BitVec.ofNat 64 d) } else none
    else some w
  else if key.toNat = 0x5555 then some { w with unlocked := true }
  else some w

/-- `MemWrite(off, 4, v)` (R34) at time `now`: the watchdog after the write and the diagnostic it
records, or none where a deadline overflows. -/
def Watchdog.memWrite (w : Watchdog) (now : Time) (off : Nat) (v : Word) :
    Option (Watchdog × List Output) :=
  match off with
  | 0x00 => (w.writeKey now (BitVec.ofNat 16 v.toNat)).map fun w' => (w', [])
  | 0x04 => some (if w.unlocked then { w with prescalerRaw := BitVec.ofNat 3 v.toNat } else w, [])
  | 0x08 =>
      some (if w.unlocked then
          { w with reloadRegister := BitVec.ofNat 12 (v.toNat % 2 ^ 11) }
        else w, [])
  | 0x0C => some (w, [])
  | off => some (w, [.diag .write off])

/-- `MemRead(off, 4)` (R33): the value returned and the diagnostic recorded. -/
def Watchdog.memRead (w : Watchdog) (form : Config.PrReadForm) (off : Nat) : Word × List Output :=
  match off with
  | 0x00 => (0, [])
  | 0x04 =>
      (match form with
        | .raw => BitVec.ofNat 32 w.prescalerRaw.toNat
        | .derived => BitVec.ofNat 32 (4 * 2 ^ w.prescalerRaw.toNat), [])
  | 0x08 => (BitVec.ofNat 32 w.reloadRegister.toNat, [])
  | 0x0C => (0, [])
  | off => (0, [.diag .read off])

end Sys2Proof.Machine
end

