-- ==== Sys2Proof/Machine/Macros.lean ====
section
/-!
DEFINITION. Machine/Macros.lean: the pseudo-operations of the stimulus notation, each as the
operations it expands to (`30_encoding.md` R61).
-/

namespace Sys2Proof.Machine

/-- `SPD_WRITE a, d` -/
def spdWrite (a d : Byte) : List Input := [.transfer 0x2F, .transfer a, .transfer d]

/-- `SPD_WRITE_IMPL a, d` -/
def spdWriteImpl (a d : Byte) : List Input := [.transfer a, .transfer d]

/-- `SPD_READ a`, with any clock byte `c` (the macro's own is `0x00`) -/
def spdReadWith (a c : Byte) : List Input := [.transfer 0xAF, .transfer a, .transfer c]

/-- `SPD_READ a` -/
def spdRead (a : Byte) : List Input := spdReadWith a 0x00

/-- `SPD_READ_IMPL a`, with any clock byte `c` -/
def spdReadImplWith (a c : Byte) : List Input := [.transfer a, .transfer c]

/-- `SPD_READ_IMPL a` -/
def spdReadImpl (a : Byte) : List Input := spdReadImplWith a 0x00

/-- `SPD_READ_STATUS`, with any clock bytes -/
def spdReadStatusWith (c c' : Byte) : List Input :=
  [.transfer 0xAF, .transfer 0x73, .transfer c, .transfer c']

/-- `SPD_READ_STATUS` -/
def spdReadStatus : List Input := spdReadStatusWith 0x00 0x00

/-- `WDG_CONFIG p, r` -/
def wdgConfig (p r : Word) : List Input :=
  [writeAccess Config.offKr 0x5555, writeAccess Config.offPr p, writeAccess Config.offRlr r]

/-- `WDG_START` -/
def wdgStart : List Input := [writeAccess Config.offKr 0xCCCC]

/-- `WDG_KICK` -/
def wdgKick : List Input := [writeAccess Config.offKr 0xAAAA]

/-- The operations `l`, all at time `t`, before the operations `rest`. -/
def stimuli (t : Time) (l : List Input) (rest : List Stimulus) : List Stimulus :=
  l.map (fun i => { time := t, input := i }) ++ rest

end Sys2Proof.Machine
end

