-- ==== Sys2Proof/Safety.lean ====
section
/-!
DEFINITION. Safety.lean: the invariants of the two engines (`10_state.md` R17, R23), runs, and the
fairness of the expiry's delivery, in the terms the statements use.
-/

namespace Sys2Proof.Machine

/-- The invariants of the watchdog state (`10_state.md` R17 (a) to (d)). -/
structure WatchdogInv (w : Watchdog) : Prop where
  reboot_eq_enabled : w.enabled = w.rebootOnExpiry
  pending_iff_enabled : w.pendingExpiry ≠ none ↔ w.enabled = true
  prescaler_range : w.prescalerRaw.toNat ≤ 7
  reload_range : w.reloadRegister.toNat ≤ 0x7FF ∨ w.reloadRegister = 0xFFF

/-- The invariants of the decoder state (`10_state.md` R23 (a), (b), (c), (e)), what R101 adds of the
scratch byte, and R22 on the two unreachable entries of the Register Table. Its canonical form,
`table_wf`, is no rule of the spec: it belongs to this model's own representation of the table
(notes/assumptions/7.md). -/
structure DecoderInv (reg0 : Byte) (d : Decoder) : Prop where
  latched_flagged :
    d.seq.latchedAddress ≠ none → d.seq.pendingWrite = true ∨ d.seq.pendingRead = true
  phase_status :
    d.seq.readPhase ≠ .idle →
      d.seq.latchedAddress = some Config.statusAddr ∧ d.seq.pendingRead = true
  latched_no_header :
    d.seq.latchedAddress ≠ some 0x2F ∧ d.seq.latchedAddress ≠ some 0xAF
  holder_zero : d.seq.readPhase ≠ .awaitingValue → d.decoyHolder = 0
  holder_staged :
    d.seq.readPhase = .awaitingValue → d.decoyHolder = Memory.read reg0 d.regs 0x73
  table_wf : Memory.wf reg0 d.regs = true
  unreachable_zero : Memory.read reg0 d.regs 0x2F = 0 ∧ Memory.read reg0 d.regs 0xAF = 0

/-- Both engines are as their rules leave them. -/
structure Inv (s : State) : Prop where
  wdg : WatchdogInv s.wdg
  spd : DecoderInv s.reg0Default s.spd

/-- `k` steps, stopping at the first fault or refusal. -/
def run : Nat → State → Outcome
  | 0, s => .next s
  | k + 1, s =>
    match step s with
    | .next t => run k t
    | .fault r => .fault r
    | .refused r => .refused r

/-- The agents present more operations, to be performed after those already presented. -/
def State.withArrivals (s : State) (l : List Stimulus) : State := { s with inputs := s.inputs ++ l }

/-- An infinite run `σ`, in which the agents present the operations `arrivals n` before step `n`. Arrivals
may go on for ever, so that a run may perform endlessly many operations although the list in each state
is finite; that they join the list at its end is this model's choice (DESIGN CHOICE,
notes/assumptions/20.md). -/
def IsRun (arrivals : Nat → List Stimulus) (σ : Nat → State) : Prop :=
  ∀ n, step ((σ n).withArrivals (arrivals n)) = .next (σ (n + 1))

/-- The expiry may be delivered at this state's time (`60_exceptions.md` R126). -/
def State.expiryReady (s : State) : Bool := expiryEnabled s.wdg.pendingExpiry s.now

/-- The next step is the Scheduler's delivery of the expiry. -/
def State.delivers (s : State) : Prop :=
  ∃ t rest, s.inputs = { time := t, input := .event .wdgExpire } :: rest

/-- Weak fairness (`60_exceptions.md` R126 (e)): an expiry that stays enabled is eventually delivered. -/
def WeaklyFair (arrivals : Nat → List Stimulus) (σ : Nat → State) : Prop :=
  ∀ n, (∀ m, n ≤ m → (σ m).expiryReady = true) →
    ∃ m, n ≤ m ∧ ((σ m).withArrivals (arrivals m)).delivers

/-- How many reset actions stand in a log of outputs. -/
def resetActions (l : List Output) : Nat := l.count .performResetAction

/-- The operation belongs to the Serial Protocol Decoder; every other belongs to the Watchdog Engine
(`00_scope.md` R1). -/
def isSerialOp (i : Instr) : Bool := i.format == .sb || i == .spdReset

/-- Two states that the decoder cannot tell apart: the same decoder, parameters and log of outputs;
the watchdog, the clock and the stimuli to come may differ (`00_scope.md` R2). -/
def SameDecoder (s t : State) : Prop :=
  s.spd = t.spd ∧ s.reg0Default = t.reg0Default ∧ s.outputs = t.outputs

/-- Two states that the watchdog cannot tell apart: the same watchdog, clock, parameters and log of
outputs; the decoder and the stimuli to come may differ (`00_scope.md` R2). -/
def SameWatchdog (s t : State) : Prop :=
  s.wdg = t.wdg ∧ s.now = t.now ∧ s.prReadForm = t.prReadForm ∧ s.outputs = t.outputs

end Sys2Proof.Machine
end

