-- ==== Sys2Proof/Certificates/Slice0/Obligations.lean ====
section
/-!
DEFINITION. Certificates/Slice0/Obligations.lean: the statements for the provers. A docstring names the
rule or section of spec/ a statement formalises; where a clause is a decision of the spec (D<n> of
`92_eei_decisions.md`) or of this model (notes/assumptions/<n>.md), it says so.
-/

open Sys2Proof Sys2Proof.Machine

/-! ## Reset, decoding and the step -/

/-- `10_state.md` section 7, column "at instantiation", for every `REG0_DEFAULT` and `PR_READ_FORM`. The
values of `lastExpiryFlag` and `decoyHolder` are the spec's decisions D3 and D17; that the clock starts
at 0 with nothing to perform and nothing output is this model's choice (log 1, 3, 4), as is the value of
the two parameters in `State.reset` (log 5, 6). -/
def Obligations.InstantiationLeavesTheTabledValues : Prop :=
  (∀ (reg0 : Byte) (form : Config.PrReadForm), ∃ s, s = State.instantiate reg0 form ∧
    s.wdg.enabled = false ∧ s.wdg.rebootOnExpiry = false ∧ s.wdg.unlocked = false ∧
    s.wdg.prescalerRaw = 0 ∧ s.wdg.reloadRegister = 0xFFF ∧ s.wdg.lastExpiryFlag = false ∧
    s.wdg.pendingExpiry = none ∧
    s.spd.seq.pendingWrite = false ∧ s.spd.seq.pendingRead = false ∧
    s.spd.seq.latchedAddress = none ∧ s.spd.seq.readPhase = .idle ∧ s.spd.decoyHolder = 0 ∧
    s.tableRead 0 = reg0 ∧ (∀ a, 0 < a → a ≤ 216 → s.tableRead a = 0) ∧
    s.prReadForm = form ∧ s.now = 0 ∧ s.inputs = [] ∧ s.outputs = []) ∧
  State.reset = State.instantiate 0 .raw

/-- A step performs the operation that the first stimulus decodes to, at that stimulus's time; with no
stimulus left nothing changes; an input that is no operation is refused; a stimulus of the past is
refused (`00_scope.md` section 5, `20_memory.md` section 5). The list of stimuli, the stutter and the
two refusals are this model's choices (log 1, 2, 3, 11). -/
def Obligations.StepPerformsTheDecodedOperation : Prop :=
  ∀ s : State,
    (s.inputs = [] → step s = .next s) ∧
    ∀ t inp rest, s.inputs = { time := t, input := inp } :: rest →
      (s.now ≤ t →
        (∀ i, decode s.spd.seq inp = .ok i → step s = exec i { s with now := t, inputs := rest }) ∧
        (∀ r, decode s.spd.seq inp = .error r → step s = .refused .accessWidth)) ∧
      (t < s.now → step s = .refused .timeReversed)

/-- Words written out bit by bit from `30_encoding.md` sections 1 and 2 (R51, R53, R54, R56), as read
right after reset, where the decoder is idle (log 9). -/
def Obligations.WordsOfTheSpecDecodeToTheirOperations : Prop :=
  decodeTableWord 48 0x10000000CCCC = some (.krEnable 0) ∧
  decodeTableWord 48 0x10001234CCCC = some (.krEnable 0x1234) ∧
  decodeTableWord 48 0x100400000003 = some (.prWrite 3) ∧
  decodeTableWord 48 0x000800000000 = some .rlrRead ∧
  decodeTableWord 48 0x000200000000 = some (.unmappedRead 2) ∧
  decodeTableWord 8 0x2F = some .hdrWrite ∧
  decodeTableWord 8 0xAF = some .hdrRead ∧
  decodeTableWord 8 0x2E = some (.addrImplicitWrite 0x2E) ∧
  decodeTableWord 8 0xD8 = some (.addrImplicitRead 0xD8) ∧
  decodeTableWord 8 0xD9 = some (.addrOor 0xD9)

/-- Decoding the encoding of a well-formed operation gives it back, in every decoder state in which
`30_encoding.md` R56 selects it (every state, for the formats WB and EV). -/
def Obligations.DecodeOfEncodeIsTheOperation : Prop :=
  ∀ (q : Sequencing) (i : Instr), i.wellFormed = true → q.selects i = true →
    decode q (encode i) = .ok i

/-- The packed 45-bit word of a bus access (`30_encoding.md` section 1) loses nothing: the word of every
well-formed WB operation whose offset fits its 12 bits decodes to that operation, and every 45-bit word
of a write is the packed word of the access it unpacks to. -/
def Obligations.PackedWordsOfBusOperationsRoundTrip : Prop :=
  (∀ (i : Instr) (a : BusAccess), i.wellFormed = true → i.packable = true → encode i = .bus a →
    decodeTableWord 48 (packAccess a).toNat = some i) ∧
  (∀ w : BitVec 45, w.getLsbD 44 = true → packAccess (unpackAccess w) = w)

/-- `30_encoding.md` section 1 (R56): the table of serial rows is total and unambiguous. In every
decoder state each byte falls under exactly one row, whose conditions on the byte and on the state it
meets. -/
def Obligations.EveryByteFallsUnderExactlyOneSerialRow : Prop :=
  ∀ (q : Sequencing) (v : Byte),
    ((decodeByte q v).wellFormed = true ∧ q.selects (decodeByte q v) = true ∧
      encode (decodeByte q v) = .transfer v) ∧
    ∀ i : Instr, i.wellFormed = true → q.selects i = true → encode i = .transfer v →
      i = decodeByte q v

/-- `30_encoding.md` section 1 (R53): every 32-bit access is exactly one WB operation, whatever the
decoder's state, and the operation's encoding is that access (a read's `wdata` is ignored). -/
def Obligations.EveryWordAccessIsOneBusOperation : Prop :=
  ∀ (q : Sequencing) (a : BusAccess), a.width = .w32 →
    ∃ i : Instr, decode q (.bus a) = .ok i ∧ i.wellFormed = true ∧ i.format = .wb ∧
      encode i = .bus { a with wdata := if a.write then a.wdata else 0 }

/-- R71: the key is the low half of the word written at offset 0 and is compared whole; the upper half
changes nothing. -/
def Obligations.KeyIsTheLowHalfComparedWhole : Prop :=
  ∀ (q : Sequencing) (hi key : BitVec 16) (s : State),
    ∃ i : Instr, decode q (writeAccess 0x00 (keyWord hi key)) = .ok i ∧
      (key = 0xCCCC → exec i s = exec (.krEnable 0) s) ∧
      (key = 0xAAAA → exec i s = exec (.krRefresh 0) s) ∧
      (key = 0x5555 → exec i s = exec (.krUnlock 0) s) ∧
      (key ≠ 0xCCCC → key ≠ 0xAAAA → key ≠ 0x5555 → exec i s = .next s)

/-! ## The Watchdog Engine, operation by operation -/

/-- `40_watchdog.md` section 2 (R72): `KR_ENABLE` arms and schedules, in every lock and control state.
The refusal of a sum above 2^64 - 1 is the spec's decision D4; that the expiry itself is a later step is
D5 (log 12, 14). -/
def Obligations.EnableKeyArmsAndSchedules : Prop :=
  ∀ (hi : BitVec 16) (s : State) (d : Nat),
    d = s.now.toNat + periodNs s.wdg.prescalerRaw s.wdg.reloadRegister →
    (d < 2 ^ 64 →
      exec (.krEnable hi) s =
        .next { s with
          wdg := { s.wdg with
            enabled := true, rebootOnExpiry := true, pendingExpiry := some (BitVec.ofNat 64 d) } }) ∧
    (2 ^ 64 ≤ d → exec (.krEnable hi) s = .refused .deadlineOverflow)

/-- `40_watchdog.md` section 2 (R73): `KR_REFRESH` re-times while armed and does nothing while disabled.
That the current prescaler is used is the spec's decision D26; the refusal is D4 (log 12, 16). -/
def Obligations.RefreshKeyRetimesWhileArmed : Prop :=
  ∀ (hi : BitVec 16) (s : State) (d : Nat),
    d = s.now.toNat + periodNs s.wdg.prescalerRaw s.wdg.reloadRegister →
    (s.wdg.enabled = true → d < 2 ^ 64 →
      exec (.krRefresh hi) s =
        .next { s with wdg := { s.wdg with pendingExpiry := some (BitVec.ofNat 64 d) } }) ∧
    (s.wdg.enabled = true → 2 ^ 64 ≤ d → exec (.krRefresh hi) s = .refused .deadlineOverflow) ∧
    (s.wdg.enabled = false → exec (.krRefresh hi) s = .next s)

/-- R74: `KR_UNLOCK` sets `unlocked` and has no other effect; it is idempotent, and nothing but the two
resets (one of them inside an expiry) ever clears `unlocked`. -/
def Obligations.UnlockKeyOnlyUnlocks : Prop :=
  (∀ (hi : BitVec 16) (s : State),
    exec (.krUnlock hi) s = .next { s with wdg := { s.wdg with unlocked := true } }) ∧
  (∀ (hi : BitVec 16) (s t : State), exec (.krUnlock hi) s = .next t → exec (.krUnlock hi) t = .next t) ∧
  (∀ (i : Instr) (s t : State), exec i s = .next t → s.wdg.unlocked = true → t.wdg.unlocked = false →
    i = .wdgReset ∨ (i = .wdgExpire ∧ s.wdg.rebootOnExpiry = true))

/-- R75: any other key changes nothing and records nothing. -/
def Obligations.OtherKeysAreIgnored : Prop :=
  ∀ (q : Sequencing) (wdata : Word) (s : State),
    wdata.toNat % 2 ^ 16 ≠ 0xCCCC → wdata.toNat % 2 ^ 16 ≠ 0xAAAA → wdata.toNat % 2 ^ 16 ≠ 0x5555 →
    decode q (writeAccess 0x00 wdata) = .ok (.krOther wdata) ∧ exec (.krOther wdata) s = .next s

/-- R76: `PR_WRITE` stores `wdata[2:0]` while unlocked and is dropped while locked; the unlock is not
consumed and the deadline stays. -/
def Obligations.PrescalerWriteIsGatedByTheLock : Prop :=
  ∀ (wdata : Word) (s : State),
    (s.wdg.unlocked = true →
      exec (.prWrite wdata) s =
        .next { s with wdg := { s.wdg with prescalerRaw := BitVec.ofNat 3 (wdata.toNat % 8) } }) ∧
    (s.wdg.unlocked = false → exec (.prWrite wdata) s = .next s)

/-- `40_watchdog.md` section 3 (R77): `RLR_WRITE` stores `wdata[10:0]`, zero-extended, while unlocked
and is dropped while locked; no write stores a value above `0x7FF`. That 12 bits are stored is the
spec's decision D1 (log 16). -/
def Obligations.ReloadWriteIsGatedByTheLock : Prop :=
  ∀ (wdata : Word) (s : State),
    (s.wdg.unlocked = true →
      ∃ rl : BitVec 12, rl.toNat = wdata.toNat % 2 ^ 11 ∧ rl.toNat ≤ 0x7FF ∧
        exec (.rlrWrite wdata) s = .next { s with wdg := { s.wdg with reloadRegister := rl } }) ∧
    (s.wdg.unlocked = false → exec (.rlrWrite wdata) s = .next s)

/-- `40_watchdog.md` section 3 (R78): a PR read returns the selector or the divider, as the parameter
`PR_READ_FORM` says (the spec's decision D2, log 5), and changes no state. -/
def Obligations.PrescalerReadFollowsTheForm : Prop :=
  ∀ s : State, ∃ w : Word,
    exec .prRead s = .next { s with outputs := .readData w :: s.outputs } ∧
    (s.prReadForm = .raw → w.toNat = s.wdg.prescalerRaw.toNat) ∧
    (s.prReadForm = .derived → w.toNat = 4 * 2 ^ s.wdg.prescalerRaw.toNat)

/-- R79: an RLR read returns the stored 12-bit value, zero-extended, whatever the lock, and changes no
state. -/
def Obligations.ReloadReadReturnsTheStoredValue : Prop :=
  ∀ s : State, ∃ w : Word, w.toNat = s.wdg.reloadRegister.toNat ∧
    exec .rlrRead s = .next { s with outputs := .readData w :: s.outputs }

/-- R82: a read of KR returns 0 and changes no state. -/
def Obligations.KeyRegisterReadsAsZero : Prop :=
  ∀ s : State, exec .krRead s = .next { s with outputs := .readData 0 :: s.outputs }

/-- `40_watchdog.md` section 5 (R83): SR reads as 0; a write to it changes nothing and records nothing
(the spec's decision D6, log 16). -/
def Obligations.StatusRegisterIsAStub : Prop :=
  ∀ (wdata : Word) (s : State),
    exec .srRead s = .next { s with outputs := .readData 0 :: s.outputs } ∧
    exec (.srWrite wdata) s = .next s

/-- `20_memory.md` section 2 (R35): an unmapped read returns 0 with a diagnostic, an unmapped write is
dropped with a diagnostic (the write half is the spec's decision D7, log 16). That of the two outputs of
a read the data is the newer one is this model's choice (log 4). -/
def Obligations.UnmappedAccessesOnlyRecordADiagnostic : Prop :=
  ∀ (off : Nat) (wdata : Word) (s : State),
    exec (.unmappedRead off) s =
      .next { s with outputs := .readData 0 :: .diag .read off :: s.outputs } ∧
    exec (.unmappedWrite off wdata) s = .next { s with outputs := .diag .write off :: s.outputs }

/-- `60_exceptions.md` section 1 (R121): an access to an undefined offset is no exception. A step that
performs one always completes, records a diagnostic, answers a read with 0 and leaves both engines as
they were (the write half is the spec's decision D7, log 16). That the read data stands at the head of
the outputs, before the diagnostic, is this model's choice (log 4). How an operation reaches a step is
this model's choice (log 1). -/
def Obligations.UndefinedOffsetsNeverFault : Prop :=
  ∀ (s : State) (t : Time) (a : BusAccess) (rest : List Stimulus),
    s.inputs = { time := t, input := .bus a } :: rest → s.now ≤ t → a.width = .w32 →
    a.offset ≠ 0x00 → a.offset ≠ 0x04 → a.offset ≠ 0x08 → a.offset ≠ 0x0C →
    ∃ u, step s = .next u ∧ u.wdg = s.wdg ∧ u.spd = s.spd ∧
      .diag (if a.write then .write else .read) a.offset ∈ u.outputs ∧
      (a.write = false → u.outputs.head? = some (.readData 0))

/-- R80: `reset()` restores every field of the watchdog but `lastExpiryFlag`, in any state; it is
idempotent. -/
def Obligations.WatchdogResetKeepsOnlyTheLatch : Prop :=
  ∀ s : State, ∃ t, exec .wdgReset s = .next t ∧
    t = { s with
      wdg :=
        { enabled := false, rebootOnExpiry := false, unlocked := false, prescalerRaw := 0,
          reloadRegister := 0xFFF, lastExpiryFlag := s.wdg.lastExpiryFlag, pendingExpiry := none } } ∧
    exec .wdgReset t = .next t

/-- `40_watchdog.md` section 4 (R81): the expiry may be taken only when a deadline is pending and
reached. With `rebootOnExpiry` it sets the latch, emits one reset action and resets; without it, it only
consumes the deadline. Where it may not be taken, no such step exists and the model refuses it (log 14).
-/
def Obligations.ExpiryRebootsOrIsInert : Prop :=
  ∀ s : State,
    (∀ d, s.wdg.pendingExpiry = some d → d ≤ s.now → s.wdg.rebootOnExpiry = true →
      exec .wdgExpire s =
        .next { s with
          wdg :=
            { enabled := false, rebootOnExpiry := false, unlocked := false, prescalerRaw := 0,
              reloadRegister := 0xFFF, lastExpiryFlag := true, pendingExpiry := none }
          outputs := .performResetAction :: s.outputs }) ∧
    (∀ d, s.wdg.pendingExpiry = some d → d ≤ s.now → s.wdg.rebootOnExpiry = false →
      exec .wdgExpire s = .next { s with wdg := { s.wdg with pendingExpiry := none } }) ∧
    (∀ d, s.wdg.pendingExpiry = some d → s.now < d →
      exec .wdgExpire s = .refused .expiryNotEnabled) ∧
    (s.wdg.pendingExpiry = none → exec .wdgExpire s = .refused .expiryNotEnabled)

/-! ## The Serial Protocol Decoder, operation by operation -/

/-- R91 and R92: `0x2F` and `0xAF` are headers in every decoder state; each sets its own flag, answers
`0x00` and touches nothing else. -/
def Obligations.HeadersSetTheirFlagInEveryState : Prop :=
  ∀ s : State,
    decode s.spd.seq (.transfer 0x2F) = .ok .hdrWrite ∧
    decode s.spd.seq (.transfer 0xAF) = .ok .hdrRead ∧
    exec .hdrWrite s =
      .next { s with
        spd := { s.spd with seq := { s.spd.seq with pendingWrite := true } }
        outputs := .response 0x00 :: s.outputs } ∧
    exec .hdrRead s =
      .next { s with
        spd := { s.spd with seq := { s.spd.seq with pendingRead := true } }
        outputs := .response 0x00 :: s.outputs }

/-- `41_serial_decoder.md` section 4 (R94, R95): a headerless address byte takes its direction from its
value and is latched in the same transfer. That the phase turns to AwaitingDecoy on `0x73` is the spec's
decision D16 (log 16). -/
def Obligations.HeaderlessAddressTakesItsDirectionFromItsValue : Prop :=
  ∀ (s : State) (v : Byte) (hv : v.toNat < 217),
    s.spd.seq.latchedAddress = none → s.spd.seq.pendingWrite = false →
    s.spd.seq.pendingRead = false →
    (v.toNat < 0x2F →
      exec (.addrImplicitWrite v) s =
        .next { s with
          spd := { s.spd with
            seq :=
              { pendingWrite := true, pendingRead := false, latchedAddress := some ⟨v.toNat, hv⟩,
                readPhase := s.spd.seq.readPhase } }
          outputs := .response 0x00 :: s.outputs }) ∧
    (0x2F < v.toNat → v ≠ 0xAF →
      exec (.addrImplicitRead v) s =
        .next { s with
          spd := { s.spd with
            seq :=
              { pendingWrite := false, pendingRead := true, latchedAddress := some ⟨v.toNat, hv⟩,
                readPhase := if v = 0x73 then .awaitingDecoy else s.spd.seq.readPhase } }
          outputs := .response 0x00 :: s.outputs })

/-- `41_serial_decoder.md` section 4 (R95): an address byte after a header is latched and the flags
stay. That the phase turns to AwaitingDecoy on `0x73` is the spec's decision D16 (log 16). -/
def Obligations.AddressAfterAHeaderIsLatched : Prop :=
  ∀ (s : State) (v : Byte) (hv : v.toNat < 217),
    s.spd.seq.latchedAddress = none →
    (s.spd.seq.pendingWrite = true ∨ s.spd.seq.pendingRead = true) → v ≠ 0x2F → v ≠ 0xAF →
    exec (.addrLatch v) s =
      .next { s with
        spd := { s.spd with
          seq := { s.spd.seq with
            latchedAddress := some ⟨v.toNat, hv⟩
            readPhase :=
              if s.spd.seq.pendingRead = true ∧ v = 0x73 then .awaitingDecoy
              else s.spd.seq.readPhase } }
        outputs := .response 0x00 :: s.outputs }

/-- `41_serial_decoder.md` section 4 (R97): a byte 217..255 where an address is expected has no meaning
and stops the model with the fault of that name (the spec's decision D12, log 13). -/
def Obligations.OutOfRangeAddressByteFaults : Prop :=
  ∀ (s : State) (v : Byte), s.spd.seq.latchedAddress = none → 217 ≤ v.toNat →
    decode s.spd.seq (.transfer v) = .ok (.addrOor v) ∧
    exec (.addrOor v) s = .fault .addrOutOfRange

/-- `41_serial_decoder.md` section 5 (R98): the commit stores its byte at the latched address, leaves
every other address of the table alone, returns to idle and answers `0x00`. That all five framing fields
are cleared is the spec's decision D13 (log 16). -/
def Obligations.DataCommitStoresAtTheLatchedAddress : Prop :=
  ∀ (s : State) (v : Byte) (a : TableAddr),
    s.spd.seq.latchedAddress = some a → s.spd.seq.pendingWrite = true → v ≠ 0x2F → v ≠ 0xAF →
    v ≠ 0 → v.toNat ≠ a.val →
    ∃ t, exec (.dataCommit v) s = .next t ∧
      t.tableRead a.val = v ∧ (∀ b, b ≠ a.val → t.tableRead b = s.tableRead b) ∧
      t = { s with
        spd := { seq := Sequencing.idle, decoyHolder := 0, regs := t.spd.regs }
        outputs := .response 0x00 :: s.outputs }

/-- `41_serial_decoder.md` section 6 (R100): the first phase of a read of `0x73` answers the decoy and
advances to the second phase; the flags and the address stay. What the scratch byte holds is the spec's
decision D17, the commit test first is D14 (log 16). -/
def Obligations.StatusReadAnswersTheDecoyFirst : Prop :=
  ∀ (s : State) (v : Byte),
    s.spd.seq.latchedAddress = some 0x73 → s.spd.seq.pendingRead = true →
    s.spd.seq.readPhase ≠ .awaitingValue → v ≠ 0x2F → v ≠ 0xAF →
    (s.spd.seq.pendingWrite = false ∨ v = 0 ∨ v = 0x73) →
    exec (.readDecoy v) s =
      .next { s with
        spd := { s.spd with
          seq := { s.spd.seq with readPhase := .awaitingValue }
          decoyHolder := s.tableRead 0x73 }
        outputs := .response 0x41 :: s.outputs }

/-- `41_serial_decoder.md` section 6 (R101): the second phase of a read of `0x73` answers the stored
value and returns to idle (D13, D14, D17; log 16). -/
def Obligations.StatusReadAnswersTheValueSecond : Prop :=
  ∀ (s : State) (v : Byte),
    s.spd.seq.latchedAddress = some 0x73 → s.spd.seq.pendingRead = true →
    s.spd.seq.readPhase = .awaitingValue → v ≠ 0x2F → v ≠ 0xAF →
    (s.spd.seq.pendingWrite = false ∨ v = 0 ∨ v = 0x73) →
    exec (.readValue v) s =
      .next { s with
        spd := { seq := Sequencing.idle, decoyHolder := 0, regs := s.spd.regs }
        outputs := .response (s.tableRead 0x73) :: s.outputs }

/-- `41_serial_decoder.md` section 6 (R102): the read of any other address is one phase, answers
`regs[A]` and returns to idle; the clock byte's value is not used (D13, D14; log 16). -/
def Obligations.SingleReadAnswersTheLatchedRegister : Prop :=
  ∀ (s : State) (v : Byte) (a : TableAddr),
    s.spd.seq.latchedAddress = some a → a ≠ 0x73 → s.spd.seq.pendingRead = true →
    v ≠ 0x2F → v ≠ 0xAF → (s.spd.seq.pendingWrite = false ∨ v = 0 ∨ v.toNat = a.val) →
    exec (.readSingle v) s =
      .next { s with
        spd := { seq := Sequencing.idle, decoyHolder := 0, regs := s.spd.regs }
        outputs := .response (s.tableRead a.val) :: s.outputs }

/-- `41_serial_decoder.md` section 5 (R99): a pulse in a write phase answers `0x00` and changes no state
(the spec's decision D15, log 16). -/
def Obligations.PulseInAWritePhaseChangesNothing : Prop :=
  ∀ (s : State) (a : TableAddr),
    s.spd.seq.latchedAddress = some a → a ≠ 0 → s.spd.seq.pendingWrite = true →
    s.spd.seq.pendingRead = false →
    decode s.spd.seq (.transfer 0) = .ok .pulseNop ∧
    exec .pulseNop s = .next { s with outputs := .response 0x00 :: s.outputs }

/-- R103: with no read pending, a byte equal to the latched address, or any byte with neither flag set,
answers `0x00` and changes no state; the write stays pending. -/
def Obligations.DataEqualToTheAddressIsDropped : Prop :=
  ∀ (s : State) (v : Byte) (a : TableAddr),
    s.spd.seq.latchedAddress = some a → s.spd.seq.pendingRead = false → v ≠ 0x2F → v ≠ 0xAF →
    (v.toNat = a.val ∨ s.spd.seq.pendingWrite = false) →
    decode s.spd.seq (.transfer v) = .ok (.dataNop v) ∧
    exec (.dataNop v) s = .next { s with outputs := .response 0x00 :: s.outputs }

/-- `41_serial_decoder.md` section 7 (R104): the decoder's `reset()` clears the framing state and leaves
the Register Table as it is; a second one changes nothing more. That the scratch byte is cleared too is
the spec's decision D17 (log 16). -/
def Obligations.DecoderResetKeepsTheTable : Prop :=
  ∀ s : State, ∃ t, exec .spdReset s = .next t ∧
    t = { s with
      spd :=
        { seq :=
            { pendingWrite := false, pendingRead := false, latchedAddress := none,
              readPhase := .idle }
          decoyHolder := 0
          regs := s.spd.regs } } ∧
    (∀ a, t.tableRead a = s.tableRead a) ∧ exec .spdReset t = .next t

/-! ## The entry points in one piece -/

/-- `41_serial_decoder.md` section 8 (R105): a step on a transfer byte is `onTransferByte`, in every
state: the same decoder, the same response, the same fault, and nothing else touched. The clauses on D12
to D17 are the spec's decisions (log 13, 16). How an operation reaches a step is this model's choice
(log 1). -/
def Obligations.TransferStepIsOnTransferByte : Prop :=
  ∀ (s : State) (t : Time) (v : Byte) (rest : List Stimulus),
    s.inputs = { time := t, input := .transfer v } :: rest → s.now ≤ t →
    step s =
      match onTransferByte s.reg0Default s.spd v with
      | some (d, b) =>
          .next { s with now := t, inputs := rest, spd := d, outputs := .response b :: s.outputs }
      | none => .fault .addrOutOfRange

/-- `20_memory.md` section 2 (R34): a step on a 32-bit write is `MemWrite`, at every offset and in every
state. The dropped writes to SR and to unmapped offsets and the refusal of an overflow are the spec's
decisions D6, D7 and D4 (log 12, 16). How an operation reaches a step is this model's choice (log 1). -/
def Obligations.WriteStepIsMemWrite : Prop :=
  ∀ (s : State) (t : Time) (off : Nat) (v : Word) (rest : List Stimulus),
    s.inputs = { time := t, input := writeAccess off v } :: rest → s.now ≤ t →
    step s =
      match s.wdg.memWrite t off v with
      | some (w, l) => .next { s with now := t, inputs := rest, wdg := w, outputs := l ++ s.outputs }
      | none => .refused .deadlineOverflow

/-- `20_memory.md` section 2 (R33): a step on a 32-bit read returns the value `MemRead` gives and changes
no state of either engine, at every offset and in every state. What a PR read returns is the spec's
decision D2 (log 5), which offsets are unmapped its decision D7 (log 16). That the step takes a timed
stimulus from a list is this model's choice (log 1, 3), and so is that at an unmapped offset the read
data is newer than the diagnostic (log 4). -/
def Obligations.ReadStepIsMemRead : Prop :=
  ∀ (s : State) (t : Time) (off : Nat) (rest : List Stimulus),
    s.inputs = { time := t, input := readAccess off } :: rest → s.now ≤ t →
    step s =
      .next { s with
        now := t
        inputs := rest
        outputs :=
          .readData (s.wdg.memRead s.prReadForm off).1 ::
            ((s.wdg.memRead s.prReadForm off).2 ++ s.outputs) }

/-! ## The period and the deadline -/

/-- `40_watchdog.md` section 1 (R70): the floor discards nothing, the period is 0 for a reload of 0, it
grows with both inputs, and it stays within its bounds. -/
def Obligations.PeriodIsExactMonotoneAndBounded : Prop :=
  (∀ (raw : BitVec 3) (rl : BitVec 12), periodNs raw rl = 100000 * 2 ^ raw.toNat * rl.toNat) ∧
  (∀ raw : BitVec 3, periodNs raw 0 = 0) ∧
  (∀ (raw raw' : BitVec 3) (rl rl' : BitVec 12), raw ≤ raw' → rl ≤ rl' →
    periodNs raw rl ≤ periodNs raw' rl') ∧
  (∀ (raw : BitVec 3) (rl : BitVec 12), periodNs raw rl ≤ 52416000000 ∧ periodNs raw rl < 2 ^ 36 ∧
    (rl.toNat ≤ 0x7FF → periodNs raw rl ≤ 26201600000)) ∧
  periodNs 0 0xFFF = 409500000 ∧ periodNs 7 0x7FF = 26201600000 ∧ periodNs 7 0xFFF = 52416000000

/-- `40_watchdog.md` section 6 (R86, which the spec marks as derived): the counter loaded with the
reload value and decremented every `prescaler` cycles of the 40 kHz clock stands at zero exactly from
the period on. -/
def Obligations.DownCounterReachesZeroWithThePeriod : Prop :=
  ∀ (raw : BitVec 3) (rl : BitVec 12) (n : Nat),
    (DownCounter.afterCycles (prescaler raw) rl.toNat n).count = 0 ↔
      periodNs raw rl ≤ n * lsiCycleNs

/-- `70_reset_and_hazards.md` section 3 (R158): with a reload of 0 every arm, and every refresh while
armed, schedules the expiry at the present time, and it may be taken at once. That the expiry is a step
of its own, not part of the write, is the spec's decision D5 (log 14). -/
def Obligations.ReloadOfZeroExpiresAtOnce : Prop :=
  ∀ (hi : BitVec 16) (s : State), s.wdg.reloadRegister = 0 →
    (∃ t, exec (.krEnable hi) s = .next t ∧ t.wdg.pendingExpiry = some s.now ∧ t.now = s.now ∧
      t.expiryReady = true ∧ t.outputs = s.outputs) ∧
    (s.wdg.enabled = true → ∃ t, exec (.krRefresh hi) s = .next t ∧
      t.wdg.pendingExpiry = some s.now ∧ t.now = s.now ∧ t.expiryReady = true ∧
      t.outputs = s.outputs)

/-- `20_memory.md` section 5 (R44; the spec's decision D26, log 16): PR and RLR writes leave the pending
deadline alone; the next refresh uses the values they stored. -/
def Obligations.NewConfigurationTakesEffectAtTheRefresh : Prop :=
  ∀ (p r : Word) (hi : BitVec 16) (s : State), s.wdg.unlocked = true → s.wdg.enabled = true →
    s.now.toNat + 52416000000 < 2 ^ 64 →
    ∃ t u v, exec (.prWrite p) s = .next t ∧ exec (.rlrWrite r) t = .next u ∧
      exec (.krRefresh hi) u = .next v ∧
      t.wdg.pendingExpiry = s.wdg.pendingExpiry ∧ u.wdg.pendingExpiry = s.wdg.pendingExpiry ∧
      ∃ d : Time, v.wdg.pendingExpiry = some d ∧
        d.toNat = s.now.toNat + 100000 * 2 ^ (p.toNat % 8) * (r.toNat % 2048)

/-- `60_exceptions.md` section 3 (R127): a refresh taken at or after the deadline but before the expiry
cancels that expiry when the period is not 0; taken after the expiry it finds a disarmed watchdog and
does nothing. That both orders are admitted is the spec's decision D25 (log 1). -/
def Obligations.RefreshAndExpiryCompeteForAReachedDeadline : Prop :=
  ∀ (hi : BitVec 16) (s : State), s.expiryReady = true → s.wdg.enabled = true →
    s.wdg.rebootOnExpiry = true → s.wdg.reloadRegister ≠ 0 →
    s.now.toNat + 52416000000 < 2 ^ 64 →
    (∃ t, exec (.krRefresh hi) s = .next t ∧ t.expiryReady = false ∧ t.wdg.enabled = true ∧
      t.outputs = s.outputs) ∧
    (∃ t, exec .wdgExpire s = .next t ∧ t.outputs = .performResetAction :: s.outputs ∧
      t.wdg.enabled = false ∧ exec (.krRefresh hi) t = .next t)

/-- `70_reset_and_hazards.md` section 2 (R144): from any state the sequence unlock, PR, RLR, arm leaves
the watchdog armed with the chosen values and their period. How an operation reaches a step is this
model's choice (log 1). -/
def Obligations.ConfigureAndStartArmsWithTheChosenPeriod : Prop :=
  ∀ (s : State) (t : Time) (p r : Word) (rest : List Stimulus),
    s.inputs = stimuli t (wdgConfig p r ++ wdgStart) rest → s.now ≤ t →
    t.toNat + 52416000000 < 2 ^ 64 →
    ∃ u, run 4 s = .next u ∧ u.spd = s.spd ∧ u.outputs = s.outputs ∧ u.inputs = rest ∧
      u.wdg.enabled = true ∧ u.wdg.rebootOnExpiry = true ∧ u.wdg.unlocked = true ∧
      u.wdg.prescalerRaw.toNat = p.toNat % 8 ∧ u.wdg.reloadRegister.toNat = r.toNat % 2048 ∧
      ∃ d : Time, u.wdg.pendingExpiry = some d ∧
        d.toNat = t.toNat + 100000 * 2 ^ (p.toNat % 8) * (r.toNat % 2048)

/-! ## Rules of the whole machine -/

/-- `40_watchdog.md` section 6 (R84), in the states that R17 allows: the transitions of the control
state, of the deadline and of the lock, for every operation. -/
def Obligations.ControlAndLockStateTransitions : Prop :=
  ∀ (i : Instr) (s t : State), WatchdogInv s.wdg → exec i s = .next t →
    (t.wdg.enabled = true ↔
      (∃ hi, i = .krEnable hi) ∨ (s.wdg.enabled = true ∧ i ≠ .wdgReset ∧ i ≠ .wdgExpire)) ∧
    ((∃ hi, i = .krEnable hi) ∨ ((∃ hi, i = .krRefresh hi) ∧ s.wdg.enabled = true) →
      ∃ d : Time, t.wdg.pendingExpiry = some d ∧
        d.toNat = s.now.toNat + periodNs s.wdg.prescalerRaw s.wdg.reloadRegister) ∧
    (i = .wdgReset ∨ i = .wdgExpire → t.wdg.pendingExpiry = none) ∧
    ((∀ hi, i ≠ .krEnable hi) → (∀ hi, i ≠ .krRefresh hi) → i ≠ .wdgReset → i ≠ .wdgExpire →
      t.wdg.pendingExpiry = s.wdg.pendingExpiry) ∧
    ((∃ hi, i = .krRefresh hi) → s.wdg.enabled = false → t.wdg = s.wdg) ∧
    (i = .wdgExpire → t.outputs = .performResetAction :: s.outputs) ∧
    (t.wdg.unlocked = true ↔
      (∃ hi, i = .krUnlock hi) ∨ (s.wdg.unlocked = true ∧ i ≠ .wdgReset ∧ i ≠ .wdgExpire))

/-- R143: once set, `lastExpiryFlag` stays set whatever is performed, and a committed byte stays until a
later commit at its own address overwrites it. The address stored to is the latched one. -/
def Obligations.LatchAndTableSurviveEveryReset : Prop :=
  ∀ (i : Instr) (s t : State), exec i s = .next t →
    (s.wdg.lastExpiryFlag = true → t.wdg.lastExpiryFlag = true) ∧
    (∀ a : Nat, (∀ A v, i = .dataCommit v → s.spd.seq.latchedAddress = some A → a ≠ A.val) →
      t.tableRead a = s.tableRead a)

/-- `10_state.md` section 1 (R15) and section 6 (R27): `lastExpiryFlag` is set, and the reset action
emitted, only by an expiry with `rebootOnExpiry`, and then exactly once. -/
def Obligations.OnlyARebootingExpiryResetsAndLatches : Prop :=
  ∀ (i : Instr) (s t : State), exec i s = .next t →
    resetActions t.outputs =
      resetActions s.outputs + (if i = .wdgExpire ∧ s.wdg.rebootOnExpiry = true then 1 else 0) ∧
    (t.wdg.lastExpiryFlag =
      (s.wdg.lastExpiryFlag || (decide (i = .wdgExpire) && s.wdg.rebootOnExpiry)))

/-- `60_exceptions.md` section 3 (R128): after a rebooting expiry the watchdog is as after `reset()` but
for the latch, and a further `reset()` changes nothing. From any disarmed state with nothing pending,
such as that one, every operation but a new `KR_ENABLE` leaves the watchdog disarmed with nothing pending
and emits no reset action, and so does every run of any length that is given no such key. That the model
refuses an expiry that is not enabled is its own choice (log 14), as is the list of stimuli (log 1). -/
def Obligations.NoSecondExpiryWithoutANewEnable : Prop :=
  (∀ s : State, s.expiryReady = true → s.wdg.rebootOnExpiry = true →
    ∃ t, exec .wdgExpire s = .next t ∧ t.wdg = { s.wdg.reset with lastExpiryFlag := true } ∧
      exec .wdgReset t = .next t ∧ exec .wdgExpire t = .refused .expiryNotEnabled) ∧
  (∀ (i : Instr) (s t : State), s.wdg.enabled = false → s.wdg.pendingExpiry = none →
    (∀ hi, i ≠ .krEnable hi) → exec i s = .next t →
    t.wdg.enabled = false ∧ t.wdg.pendingExpiry = none ∧
      resetActions t.outputs = resetActions s.outputs) ∧
  (∀ (k : Nat) (s t : State), s.wdg.enabled = false → s.wdg.pendingExpiry = none →
    (∀ e ∈ s.inputs, ∀ w, e.input = writeAccess 0x00 w → w.toNat % 2 ^ 16 ≠ 0xCCCC) →
    run k s = .next t →
    t.wdg.enabled = false ∧ t.wdg.pendingExpiry = none ∧
      resetActions t.outputs = resetActions s.outputs)

/-- `60_exceptions.md` section 4 (R129): while locked, no operation but the two resets changes PR or
RLR; and the lock gates nothing but PR and RLR writes: every other operation does the same in two states
that differ in the lock alone. -/
def Obligations.LockGatesConfigurationWritesOnly : Prop :=
  (∀ (i : Instr) (s t : State), exec i s = .next t → s.wdg.unlocked = false → i ≠ .wdgReset →
    i ≠ .wdgExpire →
    t.wdg.prescalerRaw = s.wdg.prescalerRaw ∧ t.wdg.reloadRegister = s.wdg.reloadRegister) ∧
  (∀ (i : Instr) (s t : State) (b : Bool), (∀ w, i ≠ .prWrite w) → (∀ w, i ≠ .rlrWrite w) →
    exec i s = .next t →
    ∃ u, exec i { s with wdg := { s.wdg with unlocked := b } } = .next u ∧
      { u with wdg := { u.wdg with unlocked := t.wdg.unlocked } } = t)

/-- R2: the two engines share no state. An operation of one leaves the other's state alone, and what it
does, its outputs included, does not depend on the other's state. -/
def Obligations.EnginesAreIndependent : Prop :=
  (∀ (i : Instr) (s t : State), exec i s = .next t →
    (isSerialOp i = true → t.wdg = s.wdg) ∧ (isSerialOp i = false → t.spd = s.spd)) ∧
  (∀ (i : Instr) (s s' t : State), isSerialOp i = true → SameDecoder s s' → exec i s = .next t →
    ∃ t', exec i s' = .next t' ∧ SameDecoder t t') ∧
  (∀ (i : Instr) (s s' t : State), isSerialOp i = false → SameWatchdog s s' → exec i s = .next t →
    ∃ t', exec i s' = .next t' ∧ SameWatchdog t t')

/-- `70_reset_and_hazards.md` section 3 (R151): no operation makes a nonzero entry of the Register Table
zero; a zero byte leaves the table alone whatever address is latched. That a synchronization pulse in a
write phase commits nothing is the spec's decision D15 (log 16); how an input reaches a step is this
model's choice (log 1). -/
def Obligations.NonzeroEntriesNeverReturnToZero : Prop :=
  (∀ (i : Instr) (s t : State), exec i s = .next t → ∀ a, s.tableRead a ≠ 0 → t.tableRead a ≠ 0) ∧
  (∀ (s t : State) (time : Time) (rest : List Stimulus) (a : TableAddr),
    s.inputs = { time := time, input := .transfer 0 } :: rest → s.spd.seq.latchedAddress = some a →
    step s = .next t → ∀ b, t.tableRead b = s.tableRead b)

/-- `70_reset_and_hazards.md` section 3 (R152): no operation stores at an address the address itself;
with no read pending (R103) a data byte equal to the latched address leaves the decoder as it is. How an
operation reaches a step is this model's choice (log 1). -/
def Obligations.NoRegisterIsWrittenWithItsOwnAddress : Prop :=
  (∀ (i : Instr) (s t : State), exec i s = .next t →
    ∀ a, (t.tableRead a).toNat = a → t.tableRead a = s.tableRead a) ∧
  (∀ (s : State) (time : Time) (rest : List Stimulus) (v : Byte),
    s.inputs = { time := time, input := .transfer v } :: rest → s.now ≤ time →
    ∀ a : TableAddr, s.spd.seq.latchedAddress = some a → v.toNat = a.val → v ≠ 0x2F → v ≠ 0xAF →
    s.spd.seq.pendingRead = false →
    ∃ t, step s = .next t ∧ t.spd = s.spd)

/-- `70_reset_and_hazards.md` section 3 (R150, in part the spec's derivation): the header values can be
stored nowhere: an operation that leaves one in an entry found it there. -/
def Obligations.HeaderValuesAreNeverStored : Prop :=
  ∀ (i : Instr) (s t : State), exec i s = .next t →
    ∀ a, t.tableRead a = 0x2F ∨ t.tableRead a = 0xAF → t.tableRead a = s.tableRead a

/-- `70_reset_and_hazards.md` section 3 (R154): a pending transaction waits for ever: a step that is
neither a transfer nor the decoder's reset leaves the decoder as it is, whatever time passes. -/
def Obligations.PendingTransactionsWaitForEver : Prop :=
  ∀ s t : State, step s = .next t →
    (∀ time v rest, s.inputs ≠ { time := time, input := .transfer v } :: rest) →
    (∀ time rest, s.inputs ≠ { time := time, input := .event .spdReset } :: rest) →
    t.spd = s.spd

/-- `30_encoding.md` section 1 (R57): the six transactions of the table, from idle: how many transfers
each takes, what it answers, that it ends idle, and what it stores. That every field is idle again rests
on the spec's decision D13, the two read phases on D16 and D17 (log 16). How an operation reaches a step
is this model's choice (log 1). -/
def Obligations.TransactionsAnswerAsTabled : Prop :=
  ∀ (s : State) (t : Time) (rest : List Stimulus) (a d c c' : Byte),
    s.spd.seq = Sequencing.idle → s.spd.decoyHolder = 0 → s.now ≤ t →
    a.toNat ≤ 216 → a ≠ 0x2F → a ≠ 0xAF → d ≠ 0x2F → d ≠ 0xAF → d ≠ 0 → d ≠ a →
    c ≠ 0x2F → c ≠ 0xAF → c' ≠ 0x2F → c' ≠ 0xAF →
    (s.inputs = stimuli t (spdWrite a d) rest →
      ∃ u, run 3 s = .next u ∧ u.tableRead a.toNat = d ∧
        (∀ b, b ≠ a.toNat → u.tableRead b = s.tableRead b) ∧ u.spd.seq = Sequencing.idle ∧
        u.inputs = rest ∧
        u.outputs = .response 0 :: .response 0 :: .response 0 :: s.outputs) ∧
    (s.inputs = stimuli t (spdWriteImpl a d) rest → a.toNat < 0x2F →
      ∃ u, run 2 s = .next u ∧ u.tableRead a.toNat = d ∧
        (∀ b, b ≠ a.toNat → u.tableRead b = s.tableRead b) ∧ u.spd.seq = Sequencing.idle ∧
        u.inputs = rest ∧ u.outputs = .response 0 :: .response 0 :: s.outputs) ∧
    (s.inputs = stimuli t (spdReadWith a c) rest → a ≠ 0x73 →
      ∃ u, run 3 s = .next u ∧ u.spd = s.spd ∧ u.inputs = rest ∧
        u.outputs = .response (s.tableRead a.toNat) :: .response 0 :: .response 0 :: s.outputs) ∧
    (s.inputs = stimuli t (spdReadImplWith a c) rest → 0x2F < a.toNat → a ≠ 0x73 →
      ∃ u, run 2 s = .next u ∧ u.spd = s.spd ∧ u.inputs = rest ∧
        u.outputs = .response (s.tableRead a.toNat) :: .response 0 :: s.outputs) ∧
    (s.inputs = stimuli t (spdReadStatusWith c c') rest →
      ∃ u, run 4 s = .next u ∧ u.spd = s.spd ∧ u.inputs = rest ∧
        u.outputs =
          .response (s.tableRead 0x73) :: .response 0x41 :: .response 0 :: .response 0 ::
            s.outputs) ∧
    (s.inputs = stimuli t (.transfer 0x73 :: [.transfer c, .transfer c']) rest →
      ∃ u, run 3 s = .next u ∧ u.spd = s.spd ∧ u.inputs = rest ∧
        u.outputs =
          .response (s.tableRead 0x73) :: .response 0x41 :: .response 0 :: s.outputs)

/-! ## Stops, invariants and fairness -/

/-- `60_exceptions.md` section 1 (R120, R122): a step stops only on the model-level outcomes the spec
names, and on each of them it does: a byte 217..255 as an address faults; an access that is not 32 bits
wide, a deadline that overflows, an expiry that is not enabled and a stimulus of the past are refused
(log 3, 11, 12, 13, 14). Every other step completes; none is refused because its operation was not
selected (log 15). -/
def Obligations.StepStopsExactlyOnTheNamedInputs : Prop :=
  ∀ s : State,
    ((∃ r, step s = .fault r) ↔
      ∃ t v rest, s.inputs = { time := t, input := .transfer v } :: rest ∧ s.now ≤ t ∧
        s.spd.seq.latchedAddress = none ∧ 217 ≤ v.toNat) ∧
    (step s = .refused .timeReversed ↔ ∃ t inp rest,
      s.inputs = { time := t, input := inp } :: rest ∧ t < s.now) ∧
    (step s = .refused .accessWidth ↔ ∃ t a rest,
      s.inputs = { time := t, input := .bus a } :: rest ∧ s.now ≤ t ∧ a.width ≠ .w32) ∧
    (step s = .refused .deadlineOverflow ↔ ∃ t w rest,
      s.inputs = { time := t, input := writeAccess 0x00 w } :: rest ∧ s.now ≤ t ∧
        (w.toNat % 2 ^ 16 = 0xCCCC ∨ (w.toNat % 2 ^ 16 = 0xAAAA ∧ s.wdg.enabled = true)) ∧
        2 ^ 64 ≤ t.toNat + periodNs s.wdg.prescalerRaw s.wdg.reloadRegister) ∧
    (step s = .refused .expiryNotEnabled ↔ ∃ t rest,
      s.inputs = { time := t, input := .event .wdgExpire } :: rest ∧ s.now ≤ t ∧
        ∀ d, s.wdg.pendingExpiry = some d → t < d) ∧
    ((∃ t, step s = .next t) ∨ (∃ r, step s = .fault r) ∨ step s = .refused .timeReversed ∨
      step s = .refused .accessWidth ∨ step s = .refused .deadlineOverflow ∨
      step s = .refused .expiryNotEnabled)

/-- `00_scope.md` sections 4 and 5, `60_exceptions.md` section 3 (R126 (d)): the clock never goes back,
and no step changes a parameter. No step takes back an output (`10_state.md` section 6, R27): that the
outputs stand in the state, newest first, is this model's choice (log 4), as is that the clock does
(log 3). -/
def Obligations.ClockNeverGoesBackAndParametersStay : Prop :=
  ∀ s t : State, step s = .next t →
    s.now ≤ t.now ∧ t.prReadForm = s.prReadForm ∧ t.reg0Default = s.reg0Default ∧
      ∃ l, t.outputs = l ++ s.outputs

/-- `10_state.md` section 1 (R17, which the spec marks as derived): every step keeps the invariants of
the watchdog, from every state that has them. -/
def Obligations.EveryStepKeepsTheWatchdogInvariant : Prop :=
  ∀ s t : State, WatchdogInv s.wdg → step s = .next t → WatchdogInv t.wdg

/-- `10_state.md` section 2 (R23 and R22, which the spec marks as derived): every step keeps the
invariants of the decoder, from every state that has them. What the scratch byte holds is the spec's
decision D17 (log 16). The canonical form of the Register Table, which stands among the invariants, is no
rule of the spec but belongs to this model's own representation of the table (log 7). -/
def Obligations.EveryStepKeepsTheDecoderInvariant : Prop :=
  ∀ s t : State, DecoderInv s.reg0Default s.spd → step s = .next t →
    DecoderInv t.reg0Default t.spd

/-- `10_state.md` sections 1 and 2 (R17, R22, R23): the invariants of both engines hold at instantiation,
for every value of the parameters. What the scratch byte holds is the spec's decision D17 (log 16). The
canonical form of the Register Table, which stands among the invariants, is no rule of the spec but
belongs to this model's own representation of the table (log 7). -/
def Obligations.InvariantsHoldAtInstantiation : Prop :=
  ∀ (reg0 : Byte) (form : Config.PrReadForm), Inv (State.instantiate reg0 form)

/-- `60_exceptions.md` section 3 (R126 (b), (e); the spec's decision D5, log 18): on a weakly fair run an
expiry that may be taken does not stay untaken for ever: it is delivered, or a key or a reset cancels it.
The agents may present operations for ever, so that the run may perform endlessly many; how they present
them is this model's choice (log 1, 20). -/
def Obligations.FairRunsDoNotKeepAnExpiryWaiting : Prop :=
  ∀ (arrivals : Nat → List Stimulus) (σ : Nat → State), IsRun arrivals σ → WeaklyFair arrivals σ →
    ∀ n, (σ n).expiryReady = true → ∃ m, n ≤ m ∧ (σ m).expiryReady = false
end

