-- ==== Sys2Proof/Laws/Operands.lean ====
section
/-!
SUPPORT. Laws/Operands.lean: the constants as literals, the operand fields as numbers, and the word of a KR write from its two
halves.
-/

namespace Sys2Proof

@[simp] theorem Config.tableSize_eq : Config.tableSize = 217 := rfl
@[simp] theorem Config.keyEnable_eq : Config.keyEnable = 0xCCCC#16 := rfl
@[simp] theorem Config.keyRefresh_eq : Config.keyRefresh = 0xAAAA#16 := rfl
@[simp] theorem Config.keyUnlock_eq : Config.keyUnlock = 0x5555#16 := rfl
@[simp] theorem Config.hdrWrite_eq : Config.hdrWrite = 0x2F#8 := rfl
@[simp] theorem Config.hdrRead_eq : Config.hdrRead = 0xAF#8 := rfl
@[simp] theorem Config.statusAddr_eq : Config.statusAddr = 0x73 := rfl
@[simp] theorem Config.offKr_eq : Config.offKr = 0x00 := rfl
@[simp] theorem Config.offPr_eq : Config.offPr = 0x04 := rfl
@[simp] theorem Config.offRlr_eq : Config.offRlr = 0x08 := rfl
@[simp] theorem Config.offSr_eq : Config.offSr = 0x0C := rfl

namespace Machine

theorem keyField_toNat (w : Word) : (keyField w).toNat = w.toNat % 2 ^ 16 := by
  simp [keyField, BitVec.extractLsb'_toNat]

theorem keyIgnored_toNat (w : Word) : (keyIgnored w).toNat = w.toNat / 2 ^ 16 := by
  have := w.isLt
  simp only [keyIgnored, BitVec.extractLsb'_toNat, Nat.shiftRight_eq_div_pow]
  omega

theorem prField_toNat (w : Word) : (prField w).toNat = w.toNat % 8 := by
  simp [prField, BitVec.extractLsb'_toNat]

theorem rlField_toNat (w : Word) : (rlField w).toNat = w.toNat % 2 ^ 11 := by
  simp [rlField, BitVec.extractLsb'_toNat]

theorem keyWord_toNat (hi key : BitVec 16) : (keyWord hi key).toNat = hi.toNat * 2 ^ 16 + key.toNat := by
  rw [keyWord, BitVec.toNat_append, ← Nat.shiftLeft_add_eq_or_of_lt key.isLt, Nat.shiftLeft_eq]

@[simp] theorem keyField_keyWord (hi key : BitVec 16) : keyField (keyWord hi key) = key := by
  apply BitVec.eq_of_toNat_eq
  rw [keyField_toNat, keyWord_toNat]; have := key.isLt; omega

@[simp] theorem keyIgnored_keyWord (hi key : BitVec 16) : keyIgnored (keyWord hi key) = hi := by
  apply BitVec.eq_of_toNat_eq
  rw [keyIgnored_toNat, keyWord_toNat]; have := key.isLt; omega

theorem keyWord_fields (w : Word) : keyWord (keyIgnored w) (keyField w) = w := by
  apply BitVec.eq_of_toNat_eq
  rw [keyWord_toNat, keyIgnored_toNat, keyField_toNat]; omega

theorem prescaler_eq (raw : BitVec 3) : prescaler raw = 4 * 2 ^ raw.toNat := by
  simp [prescaler, Nat.shiftLeft_eq]

end Machine

end Sys2Proof
end

