-- ==== Sys2Proof/Laws/Memory.lean ====
section
/-!
SUPPORT. Laws/Memory.lean: the Register Table reads what was last written, a write leaves every other
address alone, and every write keeps the canonical form.
-/

namespace Sys2Proof.Machine

variable {reg0 : Byte}

theorem Memory.lookup_insert_same (m : Memory) (a : Nat) (v : Byte) :
    Memory.lookup (Memory.insert m a v) a = some v := by
  induction m with
  | nil => simp [Memory.insert, Memory.lookup]
  | cons c m ih =>
    obtain ⟨b, w⟩ := c
    simp only [Memory.insert]
    split
    · simp [Memory.lookup]
    · split
      · simp [Memory.lookup]
      · simp [Memory.lookup, *]

theorem Memory.lookup_insert_other (m : Memory) {a b : Nat} (v : Byte) (h : b ≠ a) :
    Memory.lookup (Memory.insert m a v) b = Memory.lookup m b := by
  induction m with
  | nil => simp [Memory.insert, Memory.lookup, h]
  | cons c m ih =>
    obtain ⟨k, w⟩ := c
    simp only [Memory.insert]
    split
    · simp [Memory.lookup, h]
    · split
      · rename_i hk
        simp [Memory.lookup, h, ← hk]
      · simp [Memory.lookup, ih]

theorem Memory.lookup_erase_other (m : Memory) {a b : Nat} (h : b ≠ a) :
    Memory.lookup (Memory.erase m a) b = Memory.lookup m b := by
  induction m with
  | nil => simp [Memory.erase]
  | cons c m ih =>
    obtain ⟨k, w⟩ := c
    simp only [Memory.erase]
    split
    · rename_i hk
      simp [Memory.lookup, h, ← hk, ih]
    · simp [Memory.lookup, ih]

theorem Memory.lookup_erase_same (m : Memory) (a : Nat) :
    Memory.lookup (Memory.erase m a) a = none := by
  induction m with
  | nil => rfl
  | cons c m ih =>
    obtain ⟨k, w⟩ := c
    simp only [Memory.erase]
    split
    · exact ih
    · rename_i hk
      simp only [Memory.lookup, if_neg hk]
      exact ih

/-- A canonical form from `lo` on is one from any lower address on. -/
theorem Memory.wfFrom_mono {m : Memory} {lo lo' : Nat} (h : lo' ≤ lo)
    (hw : Memory.wfFrom reg0 lo m = true) : Memory.wfFrom reg0 lo' m = true := by
  cases m with
  | nil => rfl
  | cons c m =>
    obtain ⟨k, w⟩ := c
    simp only [Memory.wfFrom, Bool.and_eq_true, decide_eq_true_eq] at hw ⊢
    exact ⟨⟨⟨by omega, hw.1.1.2⟩, hw.1.2⟩, hw.2⟩

theorem Memory.wfFrom_insert {m : Memory} {lo a : Nat} {v : Byte}
    (hw : Memory.wfFrom reg0 lo m = true) (hlo : lo ≤ a) (ha : a < Config.tableSize)
    (hv : v ≠ Memory.unlisted reg0 a) : Memory.wfFrom reg0 lo (Memory.insert m a v) = true := by
  induction m generalizing lo with
  | nil => simp [Memory.insert, Memory.wfFrom, hlo, ha, hv]
  | cons c m ih =>
    obtain ⟨k, w⟩ := c
    simp only [Memory.wfFrom, Bool.and_eq_true, decide_eq_true_eq, bne_iff_ne] at hw
    simp only [Memory.insert]
    split
    · simp only [Memory.wfFrom, Bool.and_eq_true, decide_eq_true_eq, bne_iff_ne]
      exact ⟨⟨⟨hlo, ha⟩, hv⟩, ⟨⟨⟨by omega, hw.1.1.2⟩, hw.1.2⟩, hw.2⟩⟩
    · split
      · rename_i hk
        simp only [Memory.wfFrom, Bool.and_eq_true, decide_eq_true_eq, bne_iff_ne]
        exact ⟨⟨⟨hlo, ha⟩, hv⟩, hk ▸ hw.2⟩
      · simp only [Memory.wfFrom, Bool.and_eq_true, decide_eq_true_eq, bne_iff_ne]
        exact ⟨⟨⟨hw.1.1.1, hw.1.1.2⟩, hw.1.2⟩, ih hw.2 (by omega)⟩

theorem Memory.wfFrom_erase {m : Memory} {lo : Nat} (a : Nat)
    (hw : Memory.wfFrom reg0 lo m = true) : Memory.wfFrom reg0 lo (Memory.erase m a) = true := by
  induction m generalizing lo with
  | nil => rfl
  | cons c m ih =>
    obtain ⟨k, w⟩ := c
    simp only [Memory.wfFrom, Bool.and_eq_true, decide_eq_true_eq, bne_iff_ne] at hw
    simp only [Memory.erase]
    split
    · exact Memory.wfFrom_mono (by omega) (ih hw.2)
    · simp only [Memory.wfFrom, Bool.and_eq_true, decide_eq_true_eq, bne_iff_ne]
      exact ⟨hw.1, ih hw.2⟩

/-- A write leaves every other address as it was, whatever the form of the table. -/
theorem Memory.read_write_other (m : Memory) {a b : Nat} (v : Byte) (h : b ≠ a) :
    Memory.read reg0 (Memory.write reg0 m a v) b = Memory.read reg0 m b := by
  unfold Memory.read Memory.write
  split
  · rw [Memory.lookup_erase_other m h]
  · rw [Memory.lookup_insert_other m v h]

/-- A write is read back, whatever the form of the table. -/
theorem Memory.read_write_same (m : Memory) (a : Nat) (v : Byte) :
    Memory.read reg0 (Memory.write reg0 m a v) a = v := by
  unfold Memory.read Memory.write
  split
  · rename_i hv
    rw [Memory.lookup_erase_same m a, hv]
    rfl
  · rw [Memory.lookup_insert_same]
    rfl

/-- A write keeps the canonical form. -/
theorem Memory.wf_write {m : Memory} {a : Nat} (v : Byte) (hw : Memory.wf reg0 m = true)
    (ha : a < Config.tableSize) : Memory.wf reg0 (Memory.write reg0 m a v) = true := by
  unfold Memory.write
  split
  · exact Memory.wfFrom_erase a hw
  · exact Memory.wfFrom_insert hw (Nat.zero_le a) ha ‹_›

/-- The table with nothing listed has the canonical form. -/
theorem Memory.wf_nil : Memory.wf reg0 [] = true := rfl

/-- What nothing was written to reads as its value at instantiation. -/
@[simp] theorem Memory.read_nil (a : Nat) : Memory.read reg0 [] a = Memory.unlisted reg0 a := rfl

end Sys2Proof.Machine
end

