-- ==== Sys2Proof/Laws/State.lean ====
section
/-!
SUPPORT. Laws/State.lean: what each update of the state leaves in each field, so that no proof unfolds
a record update.
-/

namespace Sys2Proof.Machine

@[simp] theorem State.emit_wdg (s : State) (o : Output) : (s.emit o).wdg = s.wdg := rfl
@[simp] theorem State.emit_spd (s : State) (o : Output) : (s.emit o).spd = s.spd := rfl
@[simp] theorem State.emit_prReadForm (s : State) (o : Output) : (s.emit o).prReadForm = s.prReadForm := rfl
@[simp] theorem State.emit_reg0Default (s : State) (o : Output) : (s.emit o).reg0Default = s.reg0Default := rfl
@[simp] theorem State.emit_now (s : State) (o : Output) : (s.emit o).now = s.now := rfl
@[simp] theorem State.emit_inputs (s : State) (o : Output) : (s.emit o).inputs = s.inputs := rfl
@[simp] theorem State.emit_outputs (s : State) (o : Output) : (s.emit o).outputs = o :: s.outputs := rfl

@[simp] theorem State.respond_wdg (s : State) (b : Byte) : (s.respond b).wdg = s.wdg := rfl
@[simp] theorem State.respond_spd (s : State) (b : Byte) : (s.respond b).spd = s.spd := rfl
@[simp] theorem State.respond_prReadForm (s : State) (b : Byte) : (s.respond b).prReadForm = s.prReadForm := rfl
@[simp] theorem State.respond_reg0Default (s : State) (b : Byte) : (s.respond b).reg0Default = s.reg0Default := rfl
@[simp] theorem State.respond_now (s : State) (b : Byte) : (s.respond b).now = s.now := rfl
@[simp] theorem State.respond_inputs (s : State) (b : Byte) : (s.respond b).inputs = s.inputs := rfl
@[simp] theorem State.respond_outputs (s : State) (b : Byte) : (s.respond b).outputs = .response b :: s.outputs := rfl

@[simp] theorem State.answer_wdg (s : State) (w : Word) : (s.answer w).wdg = s.wdg := rfl
@[simp] theorem State.answer_spd (s : State) (w : Word) : (s.answer w).spd = s.spd := rfl
@[simp] theorem State.answer_prReadForm (s : State) (w : Word) : (s.answer w).prReadForm = s.prReadForm := rfl
@[simp] theorem State.answer_reg0Default (s : State) (w : Word) : (s.answer w).reg0Default = s.reg0Default := rfl
@[simp] theorem State.answer_now (s : State) (w : Word) : (s.answer w).now = s.now := rfl
@[simp] theorem State.answer_inputs (s : State) (w : Word) : (s.answer w).inputs = s.inputs := rfl
@[simp] theorem State.answer_outputs (s : State) (w : Word) : (s.answer w).outputs = .readData w :: s.outputs := rfl

@[simp] theorem State.withSeq_wdg (s : State) (q : Sequencing) : (s.withSeq q).wdg = s.wdg := rfl
@[simp] theorem State.withSeq_spd (s : State) (q : Sequencing) : (s.withSeq q).spd = { s.spd with seq := q } := rfl
@[simp] theorem State.withSeq_prReadForm (s : State) (q : Sequencing) : (s.withSeq q).prReadForm = s.prReadForm := rfl
@[simp] theorem State.withSeq_reg0Default (s : State) (q : Sequencing) : (s.withSeq q).reg0Default = s.reg0Default := rfl
@[simp] theorem State.withSeq_now (s : State) (q : Sequencing) : (s.withSeq q).now = s.now := rfl
@[simp] theorem State.withSeq_inputs (s : State) (q : Sequencing) : (s.withSeq q).inputs = s.inputs := rfl
@[simp] theorem State.withSeq_outputs (s : State) (q : Sequencing) : (s.withSeq q).outputs = s.outputs := rfl

@[simp] theorem State.toIdle_wdg (s : State) : (s.toIdle).wdg = s.wdg := rfl
@[simp] theorem State.toIdle_spd (s : State) : (s.toIdle).spd = s.spd.toIdle := rfl
@[simp] theorem State.toIdle_prReadForm (s : State) : (s.toIdle).prReadForm = s.prReadForm := rfl
@[simp] theorem State.toIdle_reg0Default (s : State) : (s.toIdle).reg0Default = s.reg0Default := rfl
@[simp] theorem State.toIdle_now (s : State) : (s.toIdle).now = s.now := rfl
@[simp] theorem State.toIdle_inputs (s : State) : (s.toIdle).inputs = s.inputs := rfl
@[simp] theorem State.toIdle_outputs (s : State) : (s.toIdle).outputs = s.outputs := rfl

@[simp] theorem State.tableWrite_wdg (s : State) (a : TableAddr) (v : Byte) : (s.tableWrite a v).wdg = s.wdg := rfl
@[simp] theorem State.tableWrite_spd (s : State) (a : TableAddr) (v : Byte) : (s.tableWrite a v).spd = { s.spd with regs := Memory.write s.reg0Default s.spd.regs a.val v } := rfl
@[simp] theorem State.tableWrite_prReadForm (s : State) (a : TableAddr) (v : Byte) : (s.tableWrite a v).prReadForm = s.prReadForm := rfl
@[simp] theorem State.tableWrite_reg0Default (s : State) (a : TableAddr) (v : Byte) : (s.tableWrite a v).reg0Default = s.reg0Default := rfl
@[simp] theorem State.tableWrite_now (s : State) (a : TableAddr) (v : Byte) : (s.tableWrite a v).now = s.now := rfl
@[simp] theorem State.tableWrite_inputs (s : State) (a : TableAddr) (v : Byte) : (s.tableWrite a v).inputs = s.inputs := rfl
@[simp] theorem State.tableWrite_outputs (s : State) (a : TableAddr) (v : Byte) : (s.tableWrite a v).outputs = s.outputs := rfl

@[simp] theorem State.take_wdg (s : State) (t : Time) (rest : List Stimulus) : (s.take t rest).wdg = s.wdg := rfl
@[simp] theorem State.take_spd (s : State) (t : Time) (rest : List Stimulus) : (s.take t rest).spd = s.spd := rfl
@[simp] theorem State.take_prReadForm (s : State) (t : Time) (rest : List Stimulus) : (s.take t rest).prReadForm = s.prReadForm := rfl
@[simp] theorem State.take_reg0Default (s : State) (t : Time) (rest : List Stimulus) : (s.take t rest).reg0Default = s.reg0Default := rfl
@[simp] theorem State.take_now (s : State) (t : Time) (rest : List Stimulus) : (s.take t rest).now = t := rfl
@[simp] theorem State.take_inputs (s : State) (t : Time) (rest : List Stimulus) : (s.take t rest).inputs = rest := rfl
@[simp] theorem State.take_outputs (s : State) (t : Time) (rest : List Stimulus) : (s.take t rest).outputs = s.outputs := rfl

@[simp] theorem State.readLatched_wdg (s : State) (a : TableAddr) : (s.readLatched a).wdg = s.wdg := rfl
@[simp] theorem State.readLatched_spd (s : State) (a : TableAddr) : (s.readLatched a).spd = s.spd.toIdle := rfl
@[simp] theorem State.readLatched_prReadForm (s : State) (a : TableAddr) : (s.readLatched a).prReadForm = s.prReadForm := rfl
@[simp] theorem State.readLatched_reg0Default (s : State) (a : TableAddr) : (s.readLatched a).reg0Default = s.reg0Default := rfl
@[simp] theorem State.readLatched_now (s : State) (a : TableAddr) : (s.readLatched a).now = s.now := rfl
@[simp] theorem State.readLatched_inputs (s : State) (a : TableAddr) : (s.readLatched a).inputs = s.inputs := rfl
@[simp] theorem State.readLatched_outputs (s : State) (a : TableAddr) : (s.readLatched a).outputs = .response (s.tableRead a.val) :: s.outputs := rfl

@[simp] theorem Decoder.toIdle_seq (d : Decoder) : d.toIdle.seq = Sequencing.idle := rfl
@[simp] theorem Decoder.toIdle_decoyHolder (d : Decoder) : d.toIdle.decoyHolder = 0 := rfl
@[simp] theorem Decoder.toIdle_regs (d : Decoder) : d.toIdle.regs = d.regs := rfl

@[simp] theorem Watchdog.reset_enabled (w : Watchdog) : w.reset.enabled = false := rfl
@[simp] theorem Watchdog.reset_rebootOnExpiry (w : Watchdog) : w.reset.rebootOnExpiry = false := rfl
@[simp] theorem Watchdog.reset_unlocked (w : Watchdog) : w.reset.unlocked = false := rfl
@[simp] theorem Watchdog.reset_prescalerRaw (w : Watchdog) : w.reset.prescalerRaw = 0 := rfl
@[simp] theorem Watchdog.reset_reloadRegister (w : Watchdog) : w.reset.reloadRegister = Config.rlrReset := rfl
@[simp] theorem Watchdog.reset_lastExpiryFlag (w : Watchdog) : w.reset.lastExpiryFlag = w.lastExpiryFlag := rfl
@[simp] theorem Watchdog.reset_pendingExpiry (w : Watchdog) : w.reset.pendingExpiry = none := rfl

@[simp] theorem Sequencing.latch_pendingWrite (q : Sequencing) (a : TableAddr) : (q.latch a).pendingWrite = q.pendingWrite := rfl
@[simp] theorem Sequencing.latch_pendingRead (q : Sequencing) (a : TableAddr) : (q.latch a).pendingRead = q.pendingRead := rfl
@[simp] theorem Sequencing.latch_latchedAddress (q : Sequencing) (a : TableAddr) : (q.latch a).latchedAddress = some a := rfl

/-- The table read of a state depends on its parameter and its table alone. -/
theorem State.tableRead_congr {s t : State} (h0 : s.reg0Default = t.reg0Default)
    (hr : s.spd.regs = t.spd.regs) (a : Nat) : s.tableRead a = t.tableRead a := by
  simp only [State.tableRead, h0, hr]

@[simp] theorem State.take_tableRead (s : State) (t : Time) (rest : List Stimulus) (a : Nat) :
    (s.take t rest).tableRead a = s.tableRead a := rfl

@[simp] theorem State.respond_tableRead (s : State) (b : Byte) (a : Nat) :
    (s.respond b).tableRead a = s.tableRead a := rfl

@[simp] theorem State.toIdle_tableRead (s : State) (a : Nat) :
    s.toIdle.tableRead a = s.tableRead a := rfl

end Sys2Proof.Machine
end

