-- ==== Sys2Proof/Laws/Ops.lean ====
section
/-!
SUPPORT. Laws/Ops.lean: for each shared operation, once, everything it can do.
-/

namespace Sys2Proof.Machine

/-- A deadline is the exact sum, and there is none only where the sum does not fit 64 bits. -/
theorem Watchdog.deadline_eq (w : Watchdog) (now : Time) :
    w.deadline now =
      if now.toNat + periodNs w.prescalerRaw w.reloadRegister < 2 ^ 64 then
        some (BitVec.ofNat 64 (now.toNat + periodNs w.prescalerRaw w.reloadRegister))
      else none := rfl

/-- Scheduling installs the deadline, or refuses because it does not fit. -/
theorem State.schedule_cases (s : State) (w : Watchdog) :
    (∃ d, s.wdg.deadline s.now = some d ∧
      s.schedule w = .next { s with wdg := { w with pendingExpiry := some d } }) ∨
    (s.wdg.deadline s.now = none ∧ s.schedule w = .refused .deadlineOverflow) := by
  unfold State.schedule
  cases h : s.wdg.deadline s.now with
  | none => exact .inr ⟨rfl, rfl⟩
  | some d => exact .inl ⟨d, rfl, rfl⟩

/-- If scheduling answers a next state, only the watchdog has changed, to `w` with the deadline. -/
theorem State.schedule_next {s t : State} {w : Watchdog} (h : s.schedule w = .next t) :
    ∃ d, s.wdg.deadline s.now = some d ∧ t = { s with wdg := { w with pendingExpiry := some d } } := by
  rcases State.schedule_cases s w with ⟨d, hd, he⟩ | ⟨_, he⟩
  · rw [he] at h
    cases h
    exact ⟨d, hd, rfl⟩
  · rw [he] at h
    cases h

theorem State.schedule_not_fault {s : State} {w : Watchdog} {r : Fault} : s.schedule w ≠ .fault r := by
  intro h
  rcases State.schedule_cases s w with ⟨_, _, he⟩ | ⟨_, he⟩ <;> rw [he] at h <;> cases h

/-- The expiry with `rebootOnExpiry`: the latch, one reset action, and `reset()`. -/
theorem State.takeExpiry_reboot {s : State} (h : s.wdg.rebootOnExpiry = true) :
    s.takeExpiry =
      { s with
        wdg := { s.wdg.reset with lastExpiryFlag := true }
        outputs := .performResetAction :: s.outputs } := by
  unfold State.takeExpiry
  rw [if_pos h]
  rfl

/-- The inert expiry consumes the pending deadline and does nothing else. -/
theorem State.takeExpiry_inert {s : State} (h : s.wdg.rebootOnExpiry = false) :
    s.takeExpiry = { s with wdg := { s.wdg with pendingExpiry := none } } := by
  unfold State.takeExpiry
  rw [if_neg (by rw [h]; decide)]

/-- After an expiry nothing is pending. -/
theorem State.takeExpiry_pending (s : State) : s.takeExpiry.wdg.pendingExpiry = none := by
  cases h : s.wdg.rebootOnExpiry with
  | true => rw [State.takeExpiry_reboot h]; rfl
  | false => rw [State.takeExpiry_inert h]

/-- The latch of an address byte of the table. -/
theorem State.latchAddress_of_lt {s : State} {q : Sequencing} {v : Byte} (h : v.toNat < 217) :
    s.latchAddress q v =
      .next ((s.withSeq (q.latch ⟨v.toNat, h⟩)).respond Config.noResponse) := by
  unfold State.latchAddress
  exact dif_pos h

/-- If the latch answers a next state, the address is in the table. -/
theorem State.latchAddress_next {s t : State} {q : Sequencing} {v : Byte}
    (h : s.latchAddress q v = .next t) :
    ∃ hv : v.toNat < 217, t = (s.withSeq (q.latch ⟨v.toNat, hv⟩)).respond Config.noResponse := by
  unfold State.latchAddress at h
  split at h
  · rename_i hv
    cases h
    exact ⟨hv, rfl⟩
  · cases h

/-- A selected operation is performed. -/
theorem State.ifSelected_of {s : State} {i : Instr} (o : Outcome) (h : s.spd.seq.selects i = true) :
    s.ifSelected i o = o := if_pos h

/-- If a serial operation answers a next state, it was selected and its effect answered that state. -/
theorem State.ifSelected_next {s t : State} {i : Instr} {o : Outcome}
    (h : s.ifSelected i o = .next t) : s.spd.seq.selects i = true ∧ o = .next t := by
  unfold State.ifSelected at h
  split at h
  · exact ⟨‹_›, h⟩
  · cases h

/-- If an operation on the latched address answers a next state, an address is latched. -/
theorem State.onLatched_next {s t : State} {f : TableAddr → State}
    (h : s.onLatched f = .next t) : ∃ a, s.spd.seq.latchedAddress = some a ∧ t = f a := by
  unfold State.onLatched at h
  split at h
  · rename_i a ha
    cases h
    exact ⟨a, ha, rfl⟩
  · cases h

/-- A write to the table is read back. -/
theorem State.tableRead_tableWrite_same (s : State) (a : TableAddr) (v : Byte) :
    (s.tableWrite a v).tableRead a.val = v := Memory.read_write_same _ _ _

/-- A write to the table leaves every other address alone. -/
theorem State.tableRead_tableWrite_other (s : State) (a : TableAddr) (v : Byte) {b : Nat}
    (h : b ≠ a.val) : (s.tableWrite a v).tableRead b = s.tableRead b :=
  Memory.read_write_other _ _ h

end Sys2Proof.Machine
end

