-- ==== Sys2Proof/Laws/Selects.lean ====
section
/-!
SUPPORT. Laws/Selects.lean: the condition of each serial row of `30_encoding.md` R56 in terms of the
fields of the sequencing state.
-/

namespace Sys2Proof.Machine

variable {q : Sequencing} {v : Byte} {a : TableAddr}

/-- A byte is a header exactly when it is one of the two header values. -/
theorem isHeader_eq_false : isHeader v = false ↔ v ≠ Config.hdrWrite ∧ v ≠ Config.hdrRead := by
  simp [isHeader]

theorem isPulse_eq_false : isPulse a v = false ↔ ¬ (v = 0 ∧ a ≠ 0) := by
  simp [isPulse]

/-- The commit test on a latched address (`41_serial_decoder.md` R98). -/
theorem Sequencing.commits_of_latched (h : q.latchedAddress = some a) :
    q.commits v = true ↔ q.pendingWrite = true ∧ v.toNat ≠ a.val ∧ ¬ (v = 0 ∧ a ≠ 0) := by
  simp only [Sequencing.commits, h, isPulse, Bool.and_eq_true, bne_iff_ne, Bool.not_eq_true',
    Bool.and_eq_false_iff, beq_eq_false_iff_ne, bne_eq_false_iff_eq, not_and_or, not_not, ne_eq,
    and_assoc]

theorem Sequencing.commits_latched (h : q.commits v = true) : ∃ a, q.latchedAddress = some a := by
  unfold Sequencing.commits at h
  split at h
  · cases h
  · exact ⟨_, ‹_›⟩

theorem Sequencing.selects_addrImplicitWrite :
    q.selects (.addrImplicitWrite v) = true ↔
      q.latchedAddress = none ∧ q.pendingWrite = false ∧ q.pendingRead = false ∧ v.toNat < 0x2F := by
  simp [Sequencing.selects, Sequencing.flagged, and_assoc]

theorem Sequencing.selects_addrImplicitRead :
    q.selects (.addrImplicitRead v) = true ↔
      q.latchedAddress = none ∧ q.pendingWrite = false ∧ q.pendingRead = false ∧
        isHeader v = false ∧ 0x2F < v.toNat ∧ v.toNat < 217 := by
  simp [Sequencing.selects, Sequencing.flagged, and_assoc]

theorem Sequencing.selects_addrLatch :
    q.selects (.addrLatch v) = true ↔
      q.latchedAddress = none ∧ (q.pendingWrite = true ∨ q.pendingRead = true) ∧
        isHeader v = false ∧ v.toNat < 217 := by
  simp [Sequencing.selects, Sequencing.flagged, and_assoc]

theorem Sequencing.selects_dataCommit :
    q.selects (.dataCommit v) = true ↔ isHeader v = false ∧ q.commits v = true := by
  simp [Sequencing.selects]

/-- The byte clocks a pending read (`41_serial_decoder.md` R96, R100 to R102). -/
theorem Sequencing.clocksRead_iff :
    q.clocksRead v = true ↔
      isHeader v = false ∧ (∃ a, q.latchedAddress = some a) ∧ q.pendingRead = true ∧
        q.commits v = false := by
  simp [Sequencing.clocksRead, Option.isSome_iff_exists, and_assoc]

theorem Sequencing.selects_readDecoy :
    q.selects (.readDecoy v) = true ↔
      q.clocksRead v = true ∧ q.latchedAddress = some Config.statusAddr ∧
        q.readPhase ≠ .awaitingValue := by
  simp [Sequencing.selects, Sequencing.latchedIs, and_assoc]

theorem Sequencing.selects_readValue :
    q.selects (.readValue v) = true ↔
      q.clocksRead v = true ∧ q.latchedAddress = some Config.statusAddr ∧
        q.readPhase = .awaitingValue := by
  simp [Sequencing.selects, Sequencing.latchedIs, and_assoc]

theorem Sequencing.selects_readSingle :
    q.selects (.readSingle v) = true ↔
      q.clocksRead v = true ∧ q.latchedAddress ≠ some Config.statusAddr := by
  simp [Sequencing.selects, Sequencing.latchedIs]

end Sys2Proof.Machine
end

