-- ==== Sys2Proof/Laws/Exec.lean ====
section
/-!
SUPPORT. Laws/Exec.lean: everything a step and a meaning can do, once, as inversion lemmas: if it
answers a next state, that state is this one.
-/

namespace Sys2Proof.Machine

/-- A step that answers a next state either had no stimulus left, or performed the decoded operation
at the stimulus's time. -/
theorem step_next {s t : State} (h : step s = .next t) :
    (s.inputs = [] ∧ t = s) ∨
    ∃ e rest i, s.inputs = e :: rest ∧ s.now ≤ e.time ∧ decode s.spd.seq e.input = .ok i ∧
      exec i (s.take e.time rest) = .next t := by
  unfold step at h
  split at h
  · rename_i he
    cases h
    exact .inl ⟨he, rfl⟩
  · rename_i e rest he
    split at h
    · rename_i hle
      split at h
      · rename_i i hi
        exact .inr ⟨e, rest, i, he, hle, hi, h⟩
      · cases h
    · cases h

theorem execKrEnable_next {hi : BitVec 16} {s t : State} (h : execKrEnable hi s = .next t) :
    ∃ d, s.wdg.deadline s.now = some d ∧
      t = { s with
        wdg := { s.wdg with enabled := true, rebootOnExpiry := true, pendingExpiry := some d } } :=
  State.schedule_next h

theorem execKrRefresh_next {hi : BitVec 16} {s t : State} (h : execKrRefresh hi s = .next t) :
    (s.wdg.enabled = true ∧ ∃ d, s.wdg.deadline s.now = some d ∧
      t = { s with wdg := { s.wdg with pendingExpiry := some d } }) ∨
    (s.wdg.enabled = false ∧ t = s) := by
  unfold execKrRefresh at h
  split at h
  · exact .inl ⟨‹_›, State.schedule_next h⟩
  · rename_i he
    cases h
    exact .inr ⟨Bool.eq_false_iff.mpr he, rfl⟩

theorem execPrWrite_next {wdata : Word} {s t : State} (h : execPrWrite wdata s = .next t) :
    (s.wdg.unlocked = true ∧ t = { s with wdg := { s.wdg with prescalerRaw := prField wdata } }) ∨
    (s.wdg.unlocked = false ∧ t = s) := by
  unfold execPrWrite at h
  split at h
  · cases h
    exact .inl ⟨‹_›, rfl⟩
  · rename_i he
    cases h
    exact .inr ⟨Bool.eq_false_iff.mpr he, rfl⟩

theorem execRlrWrite_next {wdata : Word} {s t : State} (h : execRlrWrite wdata s = .next t) :
    (s.wdg.unlocked = true ∧
      t = { s with wdg := { s.wdg with reloadRegister := (rlField wdata).zeroExtend 12 } }) ∨
    (s.wdg.unlocked = false ∧ t = s) := by
  unfold execRlrWrite at h
  split at h
  · cases h
    exact .inl ⟨‹_›, rfl⟩
  · rename_i he
    cases h
    exact .inr ⟨Bool.eq_false_iff.mpr he, rfl⟩

theorem execAddrOor_not_next {v : Byte} {s t : State} : execAddrOor v s ≠ .next t := by
  intro h
  have h2 := (State.ifSelected_next h).2
  cases h2

theorem execAddrImplicitWrite_next {v : Byte} {s t : State}
    (h : execAddrImplicitWrite v s = .next t) :
    s.spd.seq.selects (.addrImplicitWrite v) = true ∧
    ∃ hv : v.toNat < 217,
      t = (s.withSeq (Sequencing.latch { s.spd.seq with pendingWrite := true }
        ⟨v.toNat, hv⟩)).respond Config.noResponse :=
  ⟨(State.ifSelected_next h).1, State.latchAddress_next (State.ifSelected_next h).2⟩

theorem execAddrImplicitRead_next {v : Byte} {s t : State}
    (h : execAddrImplicitRead v s = .next t) :
    s.spd.seq.selects (.addrImplicitRead v) = true ∧
    ∃ hv : v.toNat < 217,
      t = (s.withSeq (Sequencing.latch { s.spd.seq with pendingRead := true }
        ⟨v.toNat, hv⟩)).respond Config.noResponse :=
  ⟨(State.ifSelected_next h).1, State.latchAddress_next (State.ifSelected_next h).2⟩

theorem execAddrLatch_next {v : Byte} {s t : State} (h : execAddrLatch v s = .next t) :
    s.spd.seq.selects (.addrLatch v) = true ∧
    ∃ hv : v.toNat < 217,
      t = (s.withSeq (s.spd.seq.latch ⟨v.toNat, hv⟩)).respond Config.noResponse :=
  ⟨(State.ifSelected_next h).1, State.latchAddress_next (State.ifSelected_next h).2⟩

theorem execDataCommit_next {v : Byte} {s t : State} (h : execDataCommit v s = .next t) :
    s.spd.seq.selects (.dataCommit v) = true ∧
    ∃ a, s.spd.seq.latchedAddress = some a ∧
      t = (s.tableWrite a v).toIdle.respond Config.noResponse :=
  ⟨(State.ifSelected_next h).1, State.onLatched_next (State.ifSelected_next h).2⟩

theorem execReadDecoy_next {v : Byte} {s t : State} (h : execReadDecoy v s = .next t) :
    s.spd.seq.selects (.readDecoy v) = true ∧
    t = State.respond
      { s with
        spd := { s.spd with
          seq := { s.spd.seq with readPhase := .awaitingValue }
          decoyHolder := s.tableRead Config.statusAddr.val } }
      Config.decoy := by
  refine ⟨(State.ifSelected_next h).1, ?_⟩
  have h2 := (State.ifSelected_next h).2
  cases h2
  rfl

theorem execReadValue_next {v : Byte} {s t : State} (h : execReadValue v s = .next t) :
    s.spd.seq.selects (.readValue v) = true ∧ t = s.readLatched Config.statusAddr := by
  refine ⟨(State.ifSelected_next h).1, ?_⟩
  have h2 := (State.ifSelected_next h).2
  cases h2
  rfl

theorem execReadSingle_next {v : Byte} {s t : State} (h : execReadSingle v s = .next t) :
    s.spd.seq.selects (.readSingle v) = true ∧
    ∃ a, s.spd.seq.latchedAddress = some a ∧ t = s.readLatched a :=
  ⟨(State.ifSelected_next h).1, State.onLatched_next (State.ifSelected_next h).2⟩

theorem execPulseNop_next {s t : State} (h : execPulseNop s = .next t) :
    s.spd.seq.selects .pulseNop = true ∧ t = s.respond Config.noResponse := by
  refine ⟨(State.ifSelected_next h).1, ?_⟩
  have h2 := (State.ifSelected_next h).2
  cases h2
  rfl

theorem execDataNop_next {v : Byte} {s t : State} (h : execDataNop v s = .next t) :
    s.spd.seq.selects (.dataNop v) = true ∧ t = s.respond Config.noResponse := by
  refine ⟨(State.ifSelected_next h).1, ?_⟩
  have h2 := (State.ifSelected_next h).2
  cases h2
  rfl

theorem execWdgExpire_next {s t : State} (h : execWdgExpire s = .next t) :
    expiryEnabled s.wdg.pendingExpiry s.now = true ∧ t = s.takeExpiry := by
  unfold execWdgExpire at h
  split at h
  · cases h
    exact ⟨‹_›, rfl⟩
  · cases h

end Sys2Proof.Machine
end

