-- ==== Sys2Proof/Laws/PerInstr.lean ====
section
/-!
SUPPORT. Laws/PerInstr.lean: facts about every operation as syntax, one lemma per constructor.
-/

namespace Sys2Proof.Laws

/-- The encoder presents an operation in the operation's own format (`30_encoding.md` R50). -/
def EncodeFormat.Statement (i : Instr) : Prop := (encode i).format = i.format

theorem EncodeFormat.krEnable (hi : BitVec 16) : EncodeFormat.Statement (.krEnable hi) := rfl
theorem EncodeFormat.krRefresh (hi : BitVec 16) : EncodeFormat.Statement (.krRefresh hi) := rfl
theorem EncodeFormat.krUnlock (hi : BitVec 16) : EncodeFormat.Statement (.krUnlock hi) := rfl
theorem EncodeFormat.krOther (wdata : Word) : EncodeFormat.Statement (.krOther wdata) := rfl
theorem EncodeFormat.prWrite (wdata : Word) : EncodeFormat.Statement (.prWrite wdata) := rfl
theorem EncodeFormat.rlrWrite (wdata : Word) : EncodeFormat.Statement (.rlrWrite wdata) := rfl
theorem EncodeFormat.srWrite (wdata : Word) : EncodeFormat.Statement (.srWrite wdata) := rfl
theorem EncodeFormat.krRead : EncodeFormat.Statement .krRead := rfl
theorem EncodeFormat.prRead : EncodeFormat.Statement .prRead := rfl
theorem EncodeFormat.rlrRead : EncodeFormat.Statement .rlrRead := rfl
theorem EncodeFormat.srRead : EncodeFormat.Statement .srRead := rfl
theorem EncodeFormat.unmappedWrite (off : Nat) (wdata : Word) : EncodeFormat.Statement (.unmappedWrite off wdata) := rfl
theorem EncodeFormat.unmappedRead (off : Nat) : EncodeFormat.Statement (.unmappedRead off) := rfl
theorem EncodeFormat.hdrWrite : EncodeFormat.Statement .hdrWrite := rfl
theorem EncodeFormat.hdrRead : EncodeFormat.Statement .hdrRead := rfl
theorem EncodeFormat.addrOor (v : Byte) : EncodeFormat.Statement (.addrOor v) := rfl
theorem EncodeFormat.addrImplicitWrite (v : Byte) : EncodeFormat.Statement (.addrImplicitWrite v) := rfl
theorem EncodeFormat.addrImplicitRead (v : Byte) : EncodeFormat.Statement (.addrImplicitRead v) := rfl
theorem EncodeFormat.addrLatch (v : Byte) : EncodeFormat.Statement (.addrLatch v) := rfl
theorem EncodeFormat.dataCommit (v : Byte) : EncodeFormat.Statement (.dataCommit v) := rfl
theorem EncodeFormat.readDecoy (v : Byte) : EncodeFormat.Statement (.readDecoy v) := rfl
theorem EncodeFormat.readValue (v : Byte) : EncodeFormat.Statement (.readValue v) := rfl
theorem EncodeFormat.readSingle (v : Byte) : EncodeFormat.Statement (.readSingle v) := rfl
theorem EncodeFormat.pulseNop : EncodeFormat.Statement .pulseNop := rfl
theorem EncodeFormat.dataNop (v : Byte) : EncodeFormat.Statement (.dataNop v) := rfl
theorem EncodeFormat.wdgReset : EncodeFormat.Statement .wdgReset := rfl
theorem EncodeFormat.wdgExpire : EncodeFormat.Statement .wdgExpire := rfl
theorem EncodeFormat.spdReset : EncodeFormat.Statement .spdReset := rfl

end Sys2Proof.Laws
end

