-- ==== Sys2Proof/Laws/Runs.lean ====
section
/-!
SUPPORT. Laws/Runs.lean: what arrivals leave in each field of the state.
-/

namespace Sys2Proof.Machine

variable (s : State) (l : List Stimulus)

@[simp] theorem State.withArrivals_inputs : (s.withArrivals l).inputs = s.inputs ++ l := rfl
@[simp] theorem State.withArrivals_wdg : (s.withArrivals l).wdg = s.wdg := rfl
@[simp] theorem State.withArrivals_spd : (s.withArrivals l).spd = s.spd := rfl
@[simp] theorem State.withArrivals_prReadForm : (s.withArrivals l).prReadForm = s.prReadForm := rfl
@[simp] theorem State.withArrivals_reg0Default : (s.withArrivals l).reg0Default = s.reg0Default := rfl
@[simp] theorem State.withArrivals_now : (s.withArrivals l).now = s.now := rfl
@[simp] theorem State.withArrivals_outputs : (s.withArrivals l).outputs = s.outputs := rfl

/-- Arrivals change nothing about whether the expiry may be delivered. -/
@[simp] theorem State.withArrivals_expiryReady : (s.withArrivals l).expiryReady = s.expiryReady := rfl

/-- No arrivals, no change. -/
@[simp] theorem State.withArrivals_nil : s.withArrivals [] = s := by
  simp [State.withArrivals]

end Sys2Proof.Machine
end

