-- ==== Sys2Proof/Tests/Slice0.lean ====
section
/-!
SUPPORT. Tests/Slice0.lean: the checks of well-formedness, the decoding of every operation from a word
of the spec's encoding, the vectors of `95_test_vectors.md` one step at a time, and for every statement
with hypotheses a concrete state and operands that meet them.
-/

namespace Sys2Proof.Tests

open Machine

/-! ## Helpers -/

/-- The state an outcome answers, if it answers one. -/
def nextState : Outcome → Option State
  | .next s => some s
  | .fault _ => none
  | .refused _ => none

/-- The refusal an outcome is, if it is one. -/
def refusal : Outcome → Option Refusal
  | .next _ => none
  | .fault _ => none
  | .refused r => some r

/-- The fault an outcome is, if it is one. -/
def faultOf : Outcome → Option Fault
  | .next _ => none
  | .fault r => some r
  | .refused _ => none

/-- Reset, but for the watchdog and the time. -/
def wdgAt (w : Watchdog) (t : Time) : State := { State.reset with wdg := w, now := t }

/-- Reset, but for the sequencing state and the table. -/
def spdAt (q : Sequencing) (m : Memory) : State :=
  { State.reset with spd := { seq := q, decoyHolder := 0, regs := m } }

/-- The same state with these stimuli to come, all at its present time. -/
def given (s : State) (l : List Input) : State := { s with inputs := stimuli s.now l [] }

/-- One step on a packed bus word: the watchdog and the outputs after it. -/
def busStep (s : State) (word : Nat) : Option (Watchdog × List Output) :=
  (nextState (step (s.withFetchWord 48 word))).map fun t => (t.wdg, t.outputs)

/-- One step on a transfer byte: the framing state, the table and the outputs after it. -/
def byteStep (s : State) (v : Nat) : Option (Sequencing × Memory × List Output) :=
  (nextState (step (s.withFetchWord 8 v))).map fun t => (t.spd.seq, t.spd.regs, t.outputs)

/-- One step on an event: the watchdog, the framing state, the table and the outputs after it. -/
def eventStep (s : State) (e : Event) :
    Option (Watchdog × Sequencing × Memory × List Output) :=
  (nextState (step (given s [.event e]))).map fun t => (t.wdg, t.spd.seq, t.spd.regs, t.outputs)

/-- A pending write of address `a`. -/
abbrev writing (a : TableAddr) : Sequencing := ⟨true, false, some a, .idle⟩

/-- A pending one-phase read of address `a`. -/
abbrev reading (a : TableAddr) : Sequencing := ⟨false, true, some a, .idle⟩

/-- Both flags with address `a` latched. -/
abbrev both (a : TableAddr) : Sequencing := ⟨true, true, some a, .idle⟩

/-- A read of `0x73` before its first phase. -/
abbrev beforeDecoy : Sequencing := ⟨false, true, some 0x73, .awaitingDecoy⟩

/-- A read of `0x73` before its second phase. -/
abbrev beforeValue : Sequencing := ⟨false, true, some 0x73, .awaitingValue⟩

/-! ## Each check of well-formedness refuses an ill-formed operation -/

theorem test_wellFormed_refuses_keys :
    (Instr.krOther 0x1234CCCC).wellFormed = false ∧ (Instr.krOther 0xAAAA).wellFormed = false ∧
    (Instr.krOther 0x5555).wellFormed = false ∧ (Instr.krOther 0xCCCD).wellFormed = true := by decide

theorem test_wellFormed_refuses_mapped_offsets :
    (Instr.unmappedWrite 0x00 1).wellFormed = false ∧ (Instr.unmappedWrite 0x04 1).wellFormed = false ∧
    (Instr.unmappedRead 0x08).wellFormed = false ∧ (Instr.unmappedRead 0x0C).wellFormed = false ∧
    (Instr.unmappedRead 0x02).wellFormed = true := by decide

theorem test_wellFormed_refuses_address_ranges :
    (Instr.addrOor 216).wellFormed = false ∧ (Instr.addrOor 217).wellFormed = true ∧
    (Instr.addrImplicitWrite 0x2F).wellFormed = false ∧
    (Instr.addrImplicitWrite 0x2E).wellFormed = true ∧
    (Instr.addrImplicitRead 0x2F).wellFormed = false ∧
    (Instr.addrImplicitRead 0xAF).wellFormed = false ∧
    (Instr.addrImplicitRead 217).wellFormed = false ∧
    (Instr.addrImplicitRead 216).wellFormed = true ∧
    (Instr.addrLatch 0x2F).wellFormed = false ∧ (Instr.addrLatch 217).wellFormed = false := by decide

theorem test_wellFormed_refuses_headers_as_data :
    (Instr.dataCommit 0xAF).wellFormed = false ∧ (Instr.dataCommit 0).wellFormed = false ∧
    (Instr.readDecoy 0x2F).wellFormed = false ∧ (Instr.readValue 0xAF).wellFormed = false ∧
    (Instr.readSingle 0x2F).wellFormed = false ∧ (Instr.dataNop 0xAF).wellFormed = false := by decide

/-! ## Decoding, from words of `30_encoding.md` R51, R53, R56, R62 -/

/-- Writes: `op` 1 in bit 44, the offset in bits 43:32, `wdata` below. -/
theorem test_decode_bus_writes :
    decodeTableWord 48 0x1000BEEFCCCC = some (.krEnable 0xBEEF) ∧
    decodeTableWord 48 0x10000000AAAA = some (.krRefresh 0) ∧
    decodeTableWord 48 0x100080005555 = some (.krUnlock 0x8000) ∧
    decodeTableWord 48 0x10000000CCCD = some (.krOther 0xCCCD) ∧
    decodeTableWord 48 0x100400000003 = some (.prWrite 3) ∧
    decodeTableWord 48 0x1008FFFFFFFF = some (.rlrWrite 0xFFFFFFFF) ∧
    decodeTableWord 48 0x100CFFFFFFFF = some (.srWrite 0xFFFFFFFF) ∧
    decodeTableWord 48 0x101000000001 = some (.unmappedWrite 0x10 1) := by decide

/-- Reads: `op` 0; `wdata` is ignored (the last word but one). -/
theorem test_decode_bus_reads :
    decodeTableWord 48 0x000000000000 = some .krRead ∧
    decodeTableWord 48 0x000400000000 = some .prRead ∧
    decodeTableWord 48 0x000800000000 = some .rlrRead ∧
    decodeTableWord 48 0x000C00000000 = some .srRead ∧
    decodeTableWord 48 0x000480000001 = some .prRead ∧
    decodeTableWord 48 0x0FFF00000000 = some (.unmappedRead 0xFFF) := by decide

/-- Nothing latched (rows 1 to 6 of R56). -/
theorem test_decode_bytes_with_nothing_latched :
    decode beforeValue (.transfer 0x2F) = .ok .hdrWrite ∧
    decode (writing 0x25) (.transfer 0xAF) = .ok .hdrRead ∧
    decode Sequencing.idle (.transfer 0xD9) = .ok (.addrOor 0xD9) ∧
    decode Sequencing.idle (.transfer 0x00) = .ok (.addrImplicitWrite 0x00) ∧
    decode Sequencing.idle (.transfer 0x30) = .ok (.addrImplicitRead 0x30) ∧
    decode ⟨true, false, none, .idle⟩ (.transfer 0xD8) = .ok (.addrLatch 0xD8) := ⟨rfl, rfl, rfl, rfl, rfl, rfl⟩

/-- An address latched (rows 7 to 12 of R56). -/
theorem test_decode_bytes_with_an_address_latched :
    decode (both 0x40) (.transfer 0x12) = .ok (.dataCommit 0x12) ∧
    decode beforeDecoy (.transfer 0x00) = .ok (.readDecoy 0x00) ∧
    decode beforeValue (.transfer 0x11) = .ok (.readValue 0x11) ∧
    decode (both 0x40) (.transfer 0x40) = .ok (.readSingle 0x40) ∧
    decode (writing 0x25) (.transfer 0x00) = .ok .pulseNop ∧
    decode (writing 0x25) (.transfer 0x25) = .ok (.dataNop 0x25) ∧
    decode (writing 0x00) (.transfer 0x00) = .ok (.dataNop 0x00) := ⟨rfl, rfl, rfl, rfl, rfl, rfl, rfl⟩

/-- Format EV has no bits: its operations are known from the agent (R50, R58). -/
theorem test_decode_events (q : Sequencing) :
    decode q (.event .wdgReset) = .ok .wdgReset ∧ decode q (.event .wdgExpire) = .ok .wdgExpire ∧
    decode q (.event .spdReset) = .ok .spdReset ∧ decodeTableWord 0 0 = none := ⟨rfl, rfl, rfl, rfl⟩

/-- An access that is not 32 bits wide is no operation (`20_memory.md` R37). -/
theorem test_decode_refuses_other_widths :
    decode Sequencing.idle (.bus ⟨true, .w16, 0x00, 0xCCCC⟩) = .error .accessWidth ∧
    decode Sequencing.idle (.bus ⟨false, .w8, 0x04, 0⟩) = .error .accessWidth ∧
    decode Sequencing.idle (.bus ⟨false, .w64, 0x08, 0⟩) = .error .accessWidth := ⟨rfl, rfl, rfl⟩

/-! ## The Watchdog Engine: vectors W of `95_test_vectors.md` section 2 -/

/-- The watchdog at reset. -/
abbrev wReset : Watchdog := ⟨false, false, false, 0, 0xFFF, false, none⟩

/-- W12. -/
theorem test_krEnable_arms :
    busStep (wdgAt wReset 7) 0x10001234CCCC =
      some (⟨true, true, false, 0, 0xFFF, false, some 409500007⟩, []) := by decide

/-- W24: the largest period. -/
theorem test_krEnable_largest_period :
    busStep (wdgAt ⟨false, false, true, 7, 0xFFF, false, none⟩ 2) 0x10000000CCCC =
      some (⟨true, true, true, 7, 0xFFF, false, some 52416000002⟩, []) := by decide

/-- W11. -/
theorem test_krRefresh_while_disabled :
    busStep (wdgAt wReset 5) 0x10000000AAAA = some (wReset, []) := by decide

/-- W23: the new PR and RLR take effect. -/
theorem test_krRefresh_retimes :
    busStep (wdgAt ⟨true, true, true, 7, 0x7FF, false, some 409500000⟩ 400000000) 0x10000000AAAA =
      some (⟨true, true, true, 7, 0x7FF, false, some 26601600000⟩, []) := by decide

/-- W7. -/
theorem test_krUnlock :
    busStep (wdgAt wReset 0) 0x100000005555 =
      some (⟨false, false, true, 0, 0xFFF, false, none⟩, []) := by decide

/-- W13. -/
theorem test_krOther :
    busStep (wdgAt ⟨true, true, false, 0, 0xFFF, false, some 409500007⟩ 8) 0x10000000CCCD =
      some (⟨true, true, false, 0, 0xFFF, false, some 409500007⟩, []) := by decide

/-- W5. -/
theorem test_prWrite_locked : busStep (wdgAt wReset 0) 0x100400000005 = some (wReset, []) := by decide

/-- W8. -/
theorem test_prWrite_keeps_three_bits :
    busStep (wdgAt ⟨false, false, true, 0, 0xFFF, false, none⟩ 0) 0x1004FFFFFFFF =
      some (⟨false, false, true, 7, 0xFFF, false, none⟩, []) := by decide

/-- W6. -/
theorem test_rlrWrite_locked : busStep (wdgAt wReset 0) 0x100800000100 = some (wReset, []) := by decide

/-- W9 and W10: bit 11 is discarded. -/
theorem test_rlrWrite_keeps_eleven_bits :
    busStep (wdgAt ⟨false, false, true, 7, 0xFFF, false, none⟩ 0) 0x100800000FFF =
      some (⟨false, false, true, 7, 0x7FF, false, none⟩, []) := by decide

/-- W17. -/
theorem test_srWrite : busStep (wdgAt wReset 0) 0x100CFFFFFFFF = some (wReset, []) := by decide

/-- W3. -/
theorem test_krRead : busStep (wdgAt wReset 0) 0x000000000000 = some (wReset, [.readData 0]) := by decide

/-- E2: after PR 3, in both forms (W31 for the derived one). -/
theorem test_prRead_forms :
    busStep (wdgAt ⟨false, false, true, 3, 0x100, false, none⟩ 0) 0x000400000000 =
      some (⟨false, false, true, 3, 0x100, false, none⟩, [.readData 3]) ∧
    busStep { wdgAt ⟨false, false, true, 3, 0x100, false, none⟩ 0 with prReadForm := .derived }
        0x000400000000 =
      some (⟨false, false, true, 3, 0x100, false, none⟩, [.readData 0x20]) := by decide

/-- W2. -/
theorem test_rlrRead : busStep (wdgAt wReset 0) 0x000800000000 = some (wReset, [.readData 0xFFF]) := by
  decide

/-- W4. -/
theorem test_srRead : busStep (wdgAt wReset 0) 0x000C00000000 = some (wReset, [.readData 0]) := by decide

/-- W18. -/
theorem test_unmappedWrite :
    busStep (wdgAt wReset 0) 0x101000000001 = some (wReset, [.diag .write 0x10]) := by decide

/-- W20. -/
theorem test_unmappedRead :
    busStep (wdgAt wReset 0) 0x000200000000 =
      some (wReset, [.readData 0, .diag .read 0x02]) := by decide

/-- W14. -/
theorem test_wdgReset_keeps_the_latch :
    eventStep (wdgAt ⟨false, false, false, 0, 0xFFF, true, none⟩ 0) .wdgReset =
      some (⟨false, false, false, 0, 0xFFF, true, none⟩, Sequencing.idle, [], []) := by decide

/-- W16. -/
theorem test_wdgReset_disarms :
    eventStep (wdgAt ⟨true, true, true, 7, 0x7FF, false, some 26201600020⟩ 0) .wdgReset =
      some (wReset, Sequencing.idle, [], []) := by decide

/-- W26: at the deadline. -/
theorem test_wdgExpire_reboots :
    eventStep (wdgAt ⟨true, true, false, 0, 0xFFF, false, some 409500000⟩ 409500000) .wdgExpire =
      some (⟨false, false, false, 0, 0xFFF, true, none⟩, Sequencing.idle, [], [.performResetAction]) := by
  decide

/-- W30: the inert branch. -/
theorem test_wdgExpire_inert :
    eventStep (wdgAt ⟨true, false, false, 0, 0xFFF, false, some 10⟩ 10) .wdgExpire =
      some (⟨true, false, false, 0, 0xFFF, false, none⟩, Sequencing.idle, [], []) := by decide

/-! ## The Serial Protocol Decoder: vectors S of `95_test_vectors.md` section 3 -/

/-- The third byte of S23: a header in the middle of a two-phase read. -/
theorem test_hdrWrite_in_a_read :
    byteStep (spdAt beforeValue [(0x73, 0x5A)]) 0x2F =
      some (⟨true, true, some 0x73, .awaitingValue⟩, [(0x73, 0x5A)], [.response 0]) := by decide

/-- The third byte of S24: a header where a clock byte was expected. -/
theorem test_hdrRead_does_not_clock :
    byteStep (spdAt (reading 0x50) [(0x50, 0x33)]) 0xAF =
      some (reading 0x50, [(0x50, 0x33)], [.response 0]) := by decide

/-- S18. -/
theorem test_addrOor :
    faultOf (step ((spdAt Sequencing.idle []).withFetchWord 8 0xD9)) = some .addrOutOfRange := by decide

/-- The first bytes of S20 and S8. -/
theorem test_addrImplicitWrite :
    byteStep (spdAt Sequencing.idle []) 0x2E = some (writing 0x2E, [], [.response 0]) ∧
    byteStep (spdAt Sequencing.idle []) 0x00 = some (writing 0x00, [], [.response 0]) := by decide

/-- The third byte of S20 and the first byte of S3. -/
theorem test_addrImplicitRead :
    byteStep (spdAt Sequencing.idle []) 0x30 = some (reading 0x30, [], [.response 0]) ∧
    byteStep (spdAt Sequencing.idle []) 0x73 = some (beforeDecoy, [], [.response 0]) := by decide

/-- The second byte of S2: `0x73` under a read header. -/
theorem test_addrLatch_status_under_read :
    byteStep (spdAt ⟨false, true, none, .idle⟩ []) 0x73 = some (beforeDecoy, [], [.response 0]) := by
  decide

/-- The second byte of S27: `0x73` under a write header. -/
theorem test_addrLatch_status_under_write :
    byteStep (spdAt ⟨true, false, none, .idle⟩ []) 0x73 = some (writing 0x73, [], [.response 0]) := by
  decide

/-- The last byte of S16: with both flags a byte that can commit is a write. -/
theorem test_dataCommit_wins :
    byteStep (spdAt (both 0x40) [(0x40, 0x77)]) 0x12 =
      some (Sequencing.idle, [(0x40, 0x12)], [.response 0]) := by decide

/-- The last byte of S8. -/
theorem test_dataCommit_at_address_zero :
    byteStep (spdAt (writing 0x00) []) 0x05 =
      some (Sequencing.idle, [(0x00, 0x05)], [.response 0]) := by decide

/-- The third byte of S2. -/
theorem test_readDecoy :
    byteStep (spdAt beforeDecoy [(0x73, 0x5A)]) 0x00 =
      some (beforeValue, [(0x73, 0x5A)], [.response 0x41]) := by decide

/-- The last byte of S3. -/
theorem test_readValue :
    byteStep (spdAt beforeValue [(0x73, 0x5A)]) 0x22 =
      some (Sequencing.idle, [(0x73, 0x5A)], [.response 0x5A]) := by decide

/-- The last byte of S7: entry 0 reads as `REG0_DEFAULT`. -/
theorem test_readSingle_reg0_default :
    byteStep { spdAt (reading 0x00) [] with reg0Default := 7 } 0x00 =
      some (Sequencing.idle, [], [.response 7]) := by decide

/-- The last byte of S15: with both flags a byte equal to the address clocks the read. -/
theorem test_readSingle_both_flags :
    byteStep (spdAt (both 0x40) [(0x40, 0x77)]) 0x40 =
      some (Sequencing.idle, [(0x40, 0x77)], [.response 0x77]) := by decide

/-- The last byte of S9. -/
theorem test_pulseNop :
    byteStep (spdAt (writing 0x25) []) 0x00 = some (writing 0x25, [], [.response 0]) := by decide

/-- S10. -/
theorem test_dataNop :
    byteStep (spdAt (writing 0x25) []) 0x25 = some (writing 0x25, [], [.response 0]) := by decide

/-- S12. -/
theorem test_spdReset :
    eventStep (spdAt (writing 0x25) [(0x30, 9)]) .spdReset =
      some (wReset, Sequencing.idle, [(0x30, 9)], []) := by decide

/-! ## Witnesses: for every statement with hypotheses, a state and operands that meet them -/

/-- Armed from reset, with the deadline 10. -/
abbrev wArmed : Watchdog := ⟨true, true, false, 0, 0xFFF, false, some 10⟩

/-- Unlocked from reset. -/
abbrev wUnlocked : Watchdog := ⟨false, false, true, 0, 0xFFF, false, none⟩

theorem witness_InstantiationLeavesTheTabledValues :
    (State.instantiate 7 .derived).tableRead 0 = 7 ∧ (State.instantiate 7 .derived).tableRead 1 = 0 ∧
    (State.instantiate 7 .derived).tableRead 216 = 0 := by decide

theorem witness_StepPerformsTheDecodedOperation :
    State.reset.inputs = [] ∧
    (given State.reset [.transfer 0xD9]).inputs = [⟨State.reset.now, .transfer 0xD9⟩] ∧
    decode Sequencing.idle (.transfer 0xD9) = .ok (.addrOor 0xD9) ∧
    decode Sequencing.idle (.bus ⟨true, .w8, 0, 0⟩) = .error .accessWidth ∧
    (4 : Time) < (wdgAt wReset 5).now := by
  exact ⟨rfl, rfl, rfl, rfl, by decide⟩

theorem witness_DecodeOfEncodeIsTheOperation :
    (Instr.unmappedRead 0x10).wellFormed = true ∧
    (Sequencing.idle.selects (.unmappedRead 0x10)) = true ∧
    Sequencing.idle.selects (.addrOor 217) = true ∧
    Sequencing.idle.selects (.addrImplicitWrite 0x2E) = true ∧
    Sequencing.idle.selects (.addrImplicitRead 0x30) = true ∧
    (Sequencing.selects ⟨true, false, none, .idle⟩ (.addrLatch 216)) = true ∧
    (both 0x40).selects (.dataCommit 0x12) = true ∧ beforeDecoy.selects (.readDecoy 0) = true ∧
    beforeValue.selects (.readValue 0) = true ∧ (reading 0x40).selects (.readSingle 0x40) = true ∧
    (writing 0x25).selects .pulseNop = true ∧ (writing 0x25).selects (.dataNop 0x25) = true := by decide

theorem witness_PackedWordsOfBusOperationsRoundTrip :
    (Instr.unmappedWrite 0xFFF 1).wellFormed = true ∧ (Instr.unmappedWrite 0xFFF 1).packable = true ∧
    encode (.unmappedWrite 0xFFF 1) = .bus ⟨true, .w32, 0xFFF, 1⟩ ∧
    (0x1FFFFFFFFFFF : BitVec 45).getLsbD 44 = true := by
  exact ⟨by decide, by decide, rfl, by decide⟩

theorem witness_EveryByteFallsUnderExactlyOneSerialRow :
    (Instr.dataNop 0).wellFormed = true ∧ (writing 0).selects (.dataNop 0) = true ∧
    encode (.dataNop 0) = .transfer 0 := by
  exact ⟨by decide, by decide, rfl⟩

theorem witness_EveryWordAccessIsOneBusOperation :
    (BusAccess.mk false .w32 0x0C 5).width = .w32 ∧ (BusAccess.mk true .w32 0x10 5).width = .w32 := by
  decide

theorem witness_KeyIsTheLowHalfComparedWhole :
    (0xCCCD : BitVec 16) ≠ 0xCCCC ∧ (0xCCCD : BitVec 16) ≠ 0xAAAA ∧ (0xCCCD : BitVec 16) ≠ 0x5555 := by
  decide

/-- The last time at which arming succeeds, and the one after it. -/
theorem witness_EnableKeyArmsAndSchedules :
    (18446744073300051615 : Time).toNat + periodNs 0 0xFFF = 2 ^ 64 - 1 ∧
    (18446744073300051616 : Time).toNat + periodNs 0 0xFFF = 2 ^ 64 := by decide

theorem witness_RefreshKeyRetimesWhileArmed :
    wArmed.enabled = true ∧ wReset.enabled = false ∧
    (18446744073300051615 : Time).toNat + periodNs wArmed.prescalerRaw wArmed.reloadRegister < 2 ^ 64 ∧
    2 ^ 64 ≤ (18446744073300051616 : Time).toNat +
      periodNs wArmed.prescalerRaw wArmed.reloadRegister := by decide

theorem witness_UnlockKeyOnlyUnlocks :
    exec (.krUnlock 0) (wdgAt wReset 0) = .next (wdgAt wUnlocked 0) ∧
    exec .wdgReset (wdgAt wUnlocked 0) = .next (wdgAt wReset 0) ∧
    wUnlocked.unlocked = true ∧ wReset.unlocked = false := ⟨rfl, rfl, rfl, rfl⟩

theorem witness_OtherKeysAreIgnored :
    (0x1234FFFF : Word).toNat % 2 ^ 16 ≠ 0xCCCC ∧ (0x1234FFFF : Word).toNat % 2 ^ 16 ≠ 0xAAAA ∧
    (0x1234FFFF : Word).toNat % 2 ^ 16 ≠ 0x5555 := by decide

theorem witness_PrescalerWriteIsGatedByTheLock :
    wUnlocked.unlocked = true ∧ wReset.unlocked = false := by decide

theorem witness_ReloadWriteIsGatedByTheLock :
    wUnlocked.unlocked = true ∧ wReset.unlocked = false := by decide

theorem witness_PrescalerReadFollowsTheForm :
    State.reset.prReadForm = .raw ∧ (State.instantiate 0 .derived).prReadForm = .derived := by decide

theorem witness_UndefinedOffsetsNeverFault :
    (given State.reset [readAccess 0x02]).inputs = [⟨0, .bus ⟨false, .w32, 0x02, 0⟩⟩] ∧
    (given State.reset [writeAccess 0x10 1]).inputs = [⟨0, .bus ⟨true, .w32, 0x10, 1⟩⟩] ∧
    State.reset.now ≤ 0 ∧ (0x10 : Nat) ≠ 0x00 ∧ (0x10 : Nat) ≠ 0x04 ∧ (0x10 : Nat) ≠ 0x08 ∧
    (0x10 : Nat) ≠ 0x0C := by
  exact ⟨rfl, rfl, by decide, by decide, by decide, by decide, by decide⟩

/-- W26, W30, W28 and W29: at the deadline, inert, one nanosecond early, nothing pending. -/
theorem witness_ExpiryRebootsOrIsInert :
    (wArmed.pendingExpiry = some 10 ∧ (10 : Time) ≤ 10 ∧ wArmed.rebootOnExpiry = true) ∧
    (Watchdog.pendingExpiry ⟨true, false, false, 0, 0xFFF, false, some 10⟩ = some 10 ∧
      Watchdog.rebootOnExpiry ⟨true, false, false, 0, 0xFFF, false, some 10⟩ = false) ∧
    (9 : Time) < 10 ∧ wReset.pendingExpiry = none := by decide

/-- The bounds of each clause: 0 and `0x2E`; `0x30`, `0x73` and 216. -/
theorem witness_HeaderlessAddressTakesItsDirectionFromItsValue :
    State.reset.spd.seq.latchedAddress = none ∧ State.reset.spd.seq.pendingWrite = false ∧
    State.reset.spd.seq.pendingRead = false ∧ (0x00 : Byte).toNat < 0x2F ∧ (0x2E : Byte).toNat < 0x2F ∧
    0x2F < (0x30 : Byte).toNat ∧ (0x73 : Byte) ≠ 0xAF ∧ 0x2F < (0xD8 : Byte).toNat ∧
    (0xD8 : Byte).toNat < 217 := by decide

theorem witness_AddressAfterAHeaderIsLatched :
    (Sequencing.latchedAddress ⟨false, true, none, .idle⟩ = none ∧ (0x73 : Byte).toNat < 217 ∧
      (0x73 : Byte) ≠ 0x2F ∧ (0x73 : Byte) ≠ 0xAF) ∧
    ((0xD8 : Byte).toNat < 217 ∧ (0xD8 : Byte) ≠ 0x2F ∧ (0xD8 : Byte) ≠ 0xAF) := by decide

theorem witness_OutOfRangeAddressByteFaults :
    State.reset.spd.seq.latchedAddress = none ∧ 217 ≤ (0xD9 : Byte).toNat ∧
    217 ≤ (0xFF : Byte).toNat := by decide

theorem witness_DataCommitStoresAtTheLatchedAddress :
    (both 0x40).latchedAddress = some 0x40 ∧ (both 0x40).pendingWrite = true ∧ (0x12 : Byte) ≠ 0x2F ∧
    (0x12 : Byte) ≠ 0xAF ∧ (0x12 : Byte) ≠ 0 ∧ (0x12 : Byte).toNat ≠ (0x40 : TableAddr).val := by decide

theorem witness_StatusReadAnswersTheDecoyFirst :
    (beforeDecoy.latchedAddress = some 0x73 ∧ beforeDecoy.pendingRead = true ∧
      beforeDecoy.readPhase ≠ .awaitingValue ∧ beforeDecoy.pendingWrite = false ∧
      (0x11 : Byte) ≠ 0x2F ∧ (0x11 : Byte) ≠ 0xAF) ∧
    ((both 0x73).latchedAddress = some 0x73 ∧ (both 0x73).pendingWrite = true ∧
      (both 0x73).readPhase ≠ .awaitingValue ∧ (0x73 : Byte) ≠ 0x2F ∧ (0x73 : Byte) ≠ 0xAF) := by decide

theorem witness_StatusReadAnswersTheValueSecond :
    beforeValue.latchedAddress = some 0x73 ∧ beforeValue.pendingRead = true ∧
    beforeValue.readPhase = .awaitingValue ∧ beforeValue.pendingWrite = false ∧ (0x22 : Byte) ≠ 0x2F ∧
    (0x22 : Byte) ≠ 0xAF := by decide

theorem witness_SingleReadAnswersTheLatchedRegister :
    (both 0x40).latchedAddress = some 0x40 ∧ (0x40 : TableAddr) ≠ 0x73 ∧
    (both 0x40).pendingRead = true ∧ (0x40 : Byte) ≠ 0x2F ∧ (0x40 : Byte) ≠ 0xAF ∧
    (0x40 : Byte).toNat = (0x40 : TableAddr).val := by decide

theorem witness_PulseInAWritePhaseChangesNothing :
    (writing 0x25).latchedAddress = some 0x25 ∧ (0x25 : TableAddr) ≠ 0 ∧
    (writing 0x25).pendingWrite = true ∧ (writing 0x25).pendingRead = false := by decide

/-- A byte equal to the address, address 0 among them, and the state with neither flag. -/
theorem witness_DataEqualToTheAddressIsDropped :
    ((writing 0x25).latchedAddress = some 0x25 ∧ (writing 0x25).pendingRead = false ∧
      (0x25 : Byte) ≠ 0x2F ∧ (0x25 : Byte) ≠ 0xAF ∧ (0x25 : Byte).toNat = (0x25 : TableAddr).val) ∧
    (0x00 : Byte).toNat = (0x00 : TableAddr).val ∧
    (Sequencing.latchedAddress ⟨false, false, some 0x25, .idle⟩ = some 0x25 ∧
      Sequencing.pendingWrite ⟨false, false, some 0x25, .idle⟩ = false) := by decide

theorem witness_TransferStepIsOnTransferByte :
    (given (spdAt (writing 0x25) []) [.transfer 0xAB]).inputs = [⟨0, .transfer 0xAB⟩] ∧
    (spdAt (writing 0x25) []).now ≤ 0 := ⟨rfl, by decide⟩

theorem witness_WriteStepIsMemWrite :
    (given State.reset [writeAccess 0x00 0xCCCC]).inputs = [⟨0, writeAccess 0x00 0xCCCC⟩] ∧
    State.reset.now ≤ 0 := ⟨rfl, by decide⟩

theorem witness_ReadStepIsMemRead :
    (given State.reset [readAccess 0x08]).inputs = [⟨0, readAccess 0x08⟩] ∧ State.reset.now ≤ 0 :=
  ⟨rfl, by decide⟩

theorem witness_PeriodIsExactMonotoneAndBounded :
    (3 : BitVec 3) ≤ 7 ∧ (0x7FF : BitVec 12) ≤ 0xFFF ∧ (0x7FF : BitVec 12).toNat ≤ 0x7FF := by decide

theorem witness_ReloadOfZeroExpiresAtOnce :
    Watchdog.reloadRegister ⟨true, true, true, 0, 0, false, some 500⟩ = 0 ∧
    Watchdog.enabled ⟨true, true, true, 0, 0, false, some 500⟩ = true := by decide

theorem witness_NewConfigurationTakesEffectAtTheRefresh :
    Watchdog.unlocked ⟨true, true, true, 0, 0xFFF, false, some 10⟩ = true ∧
    Watchdog.enabled ⟨true, true, true, 0, 0xFFF, false, some 10⟩ = true ∧
    (2 : Time).toNat + 52416000000 < 2 ^ 64 := by decide

/-- At the deadline itself, and one nanosecond after it. -/
theorem witness_RefreshAndExpiryCompeteForAReachedDeadline :
    (wdgAt wArmed 10).expiryReady = true ∧ (wdgAt wArmed 11).expiryReady = true ∧
    wArmed.enabled = true ∧ wArmed.rebootOnExpiry = true ∧ wArmed.reloadRegister ≠ 0 ∧
    (11 : Time).toNat + 52416000000 < 2 ^ 64 := by decide

theorem witness_ConfigureAndStartArmsWithTheChosenPeriod :
    (given (wdgAt wArmed 9) (wdgConfig 3 0x100 ++ wdgStart)).inputs =
      stimuli 9 (wdgConfig 3 0x100 ++ wdgStart) [] ∧
    (wdgAt wArmed 9).now ≤ 9 ∧ (9 : Time).toNat + 52416000000 < 2 ^ 64 := ⟨rfl, by decide, by decide⟩

theorem witness_armed_WatchdogInv : WatchdogInv wArmed :=
  ⟨rfl, by decide, by decide, .inr rfl⟩

/-- The watchdog after an expiry that rebooted. -/
abbrev wExpired : Watchdog := ⟨false, false, false, 0, 0xFFF, true, none⟩

theorem expire_at_the_deadline :
    exec .wdgExpire (wdgAt wArmed 10) =
      .next { wdgAt wExpired 10 with outputs := [.performResetAction] } := rfl

/-- One operation for each clause: arm, refresh while armed and while disarmed, expire, read, unlock. -/
theorem witness_ControlAndLockStateTransitions :
    WatchdogInv (wdgAt wArmed 10).wdg ∧
    (∃ t, exec (.krEnable 0) (wdgAt wArmed 10) = .next t) ∧
    (∃ t, exec (.krRefresh 0) (wdgAt wArmed 10) = .next t) ∧
    (∃ t, exec (.krRefresh 0) (wdgAt wReset 10) = .next t) ∧
    (∃ t, exec .wdgExpire (wdgAt wArmed 10) = .next t) ∧
    (∃ t, exec .prRead (wdgAt wArmed 10) = .next t) ∧
    (∃ t, exec (.krUnlock 0) (wdgAt wArmed 10) = .next t) :=
  ⟨witness_armed_WatchdogInv, ⟨_, rfl⟩, ⟨_, rfl⟩, ⟨_, rfl⟩, ⟨_, expire_at_the_deadline⟩, ⟨_, rfl⟩,
    ⟨_, rfl⟩⟩

/-- A commit of `0x12` at `0x40`. -/
theorem commit_at_the_latched_address :
    exec (.dataCommit 0x12) (spdAt (writing 0x40) [(0x40, 0x77)]) =
      .next { spdAt Sequencing.idle [(0x40, 0x12)] with outputs := [.response 0] } := rfl

theorem witness_LatchAndTableSurviveEveryReset :
    exec .wdgReset (wdgAt wExpired 0) = .next (wdgAt wExpired 0) ∧ wExpired.lastExpiryFlag = true ∧
    (writing 0x40).latchedAddress = some 0x40 ∧ (0x41 : Nat) ≠ (0x40 : TableAddr).val ∧
    ∃ t, exec (.dataCommit 0x12) (spdAt (writing 0x40) [(0x40, 0x77)]) = .next t :=
  ⟨rfl, rfl, rfl, by decide, _, commit_at_the_latched_address⟩

theorem witness_OnlyARebootingExpiryResetsAndLatches :
    (∃ t, exec .wdgExpire (wdgAt wArmed 10) = .next t) ∧ wArmed.rebootOnExpiry = true ∧
    ∃ t, exec .wdgReset (wdgAt wArmed 10) = .next t :=
  ⟨⟨_, expire_at_the_deadline⟩, rfl, _, rfl⟩

/-- The expiry at its deadline; a key that does not arm; and a run of three steps, one of them a refresh. -/
theorem witness_NoSecondExpiryWithoutANewEnable :
    ((wdgAt wArmed 10).expiryReady = true ∧ wArmed.rebootOnExpiry = true) ∧
    (wExpired.enabled = false ∧ wExpired.pendingExpiry = none ∧
      (∀ hi, Instr.krUnlock 0 ≠ .krEnable hi) ∧
      ∃ t, exec (.krUnlock 0) (wdgAt wExpired 10) = .next t) ∧
    ((∀ e ∈ (given (wdgAt wExpired 10) [writeAccess 0 0xAAAA, .transfer 0x2F]).inputs,
        ∀ w, e.input = writeAccess 0x00 w → w.toNat % 2 ^ 16 ≠ 0xCCCC) ∧
      ∃ t, run 3 (given (wdgAt wExpired 10) [writeAccess 0 0xAAAA, .transfer 0x2F]) = .next t) := by
  refine ⟨⟨by decide, rfl⟩, ⟨rfl, rfl, fun _ => Instr.noConfusion, _, rfl⟩, ?_, _, rfl⟩
  intro e he w hw
  rcases List.mem_pair.mp he with rfl | rfl
  · cases hw
    decide
  · cases hw

theorem witness_LockGatesConfigurationWritesOnly :
    exec (.prWrite 5) (wdgAt wReset 0) = .next (wdgAt wReset 0) ∧ wReset.unlocked = false ∧
    ∃ t, exec (.krEnable 0) (wdgAt wReset 0) = .next t := ⟨rfl, rfl, _, rfl⟩

theorem witness_EnginesAreIndependent :
    isSerialOp .hdrWrite = true ∧ isSerialOp (.krUnlock 0) = false ∧
    SameDecoder (wdgAt wArmed 10) (wdgAt wReset 0) ∧
    SameWatchdog (spdAt beforeDecoy [(0x73, 0x5A)]) State.reset ∧
    (∃ t, exec .hdrWrite (wdgAt wArmed 10) = .next t) ∧
    ∃ t, exec (.krUnlock 0) (spdAt beforeDecoy [(0x73, 0x5A)]) = .next t :=
  ⟨rfl, rfl, ⟨rfl, rfl, rfl⟩, ⟨rfl, rfl, rfl, rfl⟩, ⟨_, rfl⟩, _, rfl⟩

/-- A nonzero entry under a commit at its own address, and a zero byte while it is latched. -/
theorem witness_NonzeroEntriesNeverReturnToZero :
    (∃ t, exec (.dataCommit 0x12) (spdAt (writing 0x40) [(0x40, 0x77)]) = .next t) ∧
    (spdAt (writing 0x40) [(0x40, 0x77)]).tableRead 0x40 ≠ 0 ∧
    (given (spdAt (writing 0x40) [(0x40, 0x77)]) [.transfer 0]).inputs = [⟨0, .transfer 0⟩] ∧
    (nextState (step (given (spdAt (writing 0x40) [(0x40, 0x77)]) [.transfer 0]))).isSome = true :=
  ⟨⟨_, commit_at_the_latched_address⟩, by decide, rfl, by decide⟩

theorem witness_NoRegisterIsWrittenWithItsOwnAddress :
    ((nextState (exec .spdReset (spdAt (writing 0x40) [(0x41, 0x41)]))).map
      fun t => (t.tableRead 0x41).toNat) = some 0x41 ∧
    (given (spdAt (writing 0x40) []) [.transfer 0x40]).inputs = [⟨0, .transfer 0x40⟩] ∧
    (writing 0x40).latchedAddress = some 0x40 ∧ (0x40 : Byte).toNat = (0x40 : TableAddr).val ∧
    (0x40 : Byte) ≠ 0x2F ∧ (0x40 : Byte) ≠ 0xAF ∧ (writing 0x40).pendingRead = false :=
  ⟨by decide, rfl, rfl, rfl, by decide, by decide, rfl⟩

/-- `0x2F` in entry 0, where the parameter `REG0_DEFAULT` can put it. -/
theorem witness_HeaderValuesAreNeverStored :
    ((nextState (exec .spdReset (State.instantiate 0x2F .raw))).map fun t => t.tableRead 0) =
      some 0x2F := by decide

theorem witness_PendingTransactionsWaitForEver :
    (∃ t, step (given (spdAt (writing 0x25) []) [readAccess 0x04]) = .next t) ∧
    (∀ time v rest, (given (spdAt (writing 0x25) []) [readAccess 0x04]).inputs ≠
      ⟨time, .transfer v⟩ :: rest) ∧
    ∀ time rest, (given (spdAt (writing 0x25) []) [readAccess 0x04]).inputs ≠
      ⟨time, .event .spdReset⟩ :: rest := by
  refine ⟨⟨_, rfl⟩, ?_, ?_⟩
  · intro _ _ _ h
    cases h
  · intro _ _ h
    cases h

/-- Bytes that meet every condition, the bounds 216, `0x2E` and `0x30` of the addresses among them. -/
theorem witness_TransactionsAnswerAsTabled :
    State.reset.spd.seq = Sequencing.idle ∧ State.reset.spd.decoyHolder = 0 ∧ State.reset.now ≤ 0 ∧
    (given State.reset (spdWrite 0xD8 0xAB)).inputs = stimuli 0 (spdWrite 0xD8 0xAB) [] ∧
    ((0xD8 : Byte).toNat ≤ 216 ∧ (0xD8 : Byte) ≠ 0xAF ∧ (0xD8 : Byte) ≠ 0x73) ∧
    ((0x2E : Byte).toNat < 0x2F ∧ 0x2F < (0x30 : Byte).toNat ∧ (0x30 : Byte) ≠ 0x73) ∧
    ((0xAB : Byte) ≠ 0x2F ∧ (0xAB : Byte) ≠ 0xAF ∧ (0xAB : Byte) ≠ 0 ∧ (0xAB : Byte) ≠ 0xD8) ∧
    ((0x00 : Byte) ≠ 0x2F ∧ (0x00 : Byte) ≠ 0xAF) := by
  exact ⟨rfl, rfl, by decide, rfl, by decide, by decide, by decide, by decide⟩

/-- Each stop is reached: the overflow at a sum of exactly 2^64, the expiry one nanosecond early. -/
theorem witness_StepStopsExactlyOnTheNamedInputs :
    faultOf (step (given State.reset [.transfer 0xD9])) = some .addrOutOfRange ∧
    refusal (step { wdgAt wReset 5 with inputs := [⟨4, readAccess 0⟩] }) = some .timeReversed ∧
    refusal (step (given State.reset [.bus ⟨false, .w16, 0, 0⟩])) = some .accessWidth ∧
    refusal (step (given (wdgAt wReset 18446744073300051616) [writeAccess 0 0xCCCC])) =
      some .deadlineOverflow ∧
    refusal (step (given (wdgAt wArmed 18446744073300051616) [writeAccess 0 0xAAAA])) =
      some .deadlineOverflow ∧
    refusal (step (given (wdgAt wArmed 9) [.event .wdgExpire])) = some .expiryNotEnabled := by decide

theorem witness_ClockNeverGoesBackAndParametersStay :
    ((nextState (step { wdgAt wReset 5 with inputs := [⟨7, .transfer 0x2F⟩] })).map
      fun t => (t.now, t.outputs)) = some (7, [.response 0]) := by decide

theorem witness_EveryStepKeepsTheWatchdogInvariant :
    WatchdogInv (given (wdgAt wArmed 10) [.event .wdgExpire]).wdg ∧
    ∃ t, step (given (wdgAt wArmed 10) [.event .wdgExpire]) = .next t :=
  ⟨witness_armed_WatchdogInv, _, rfl⟩

/-- Between the two phases of a read of `0x73`, with the value staged. -/
theorem witness_EveryStepKeepsTheDecoderInvariant :
    DecoderInv 0 ⟨beforeValue, 0x5A, [(0x73, 0x5A)]⟩ ∧
    ∃ t, step (given { State.reset with spd := ⟨beforeValue, 0x5A, [(0x73, 0x5A)]⟩ } [.transfer 0]) =
      .next t :=
  ⟨⟨by decide, by decide, by decide, by decide, by decide, by decide, by decide⟩, _, rfl⟩

/-- The expiry, then a write of no key, again and again. -/
def endlessArrivals : Nat → List Stimulus
  | 0 => [⟨10, .event .wdgExpire⟩]
  | _ + 1 => [⟨10, writeAccess 0x00 0⟩]

/-- A fair run of endlessly many operations, on which an expiry is ready and is then delivered. -/
def fairRun : Nat → State
  | 0 => wdgAt wArmed 10
  | _ + 1 => { wdgAt wExpired 10 with outputs := [.performResetAction] }

theorem witness_FairRunsDoNotKeepAnExpiryWaiting :
    IsRun endlessArrivals fairRun ∧ WeaklyFair endlessArrivals fairRun ∧
    (fairRun 0).expiryReady = true := by
  refine ⟨?_, ?_, by decide⟩
  · intro n
    cases n with
    | zero => rfl
    | succ n => rfl
  · intro n h
    exact absurd (h (n + 1) (Nat.le_succ n)) (by decide : ¬ (fairRun (0 + 1)).expiryReady = true)

/-- Where R51 gives a packed word and where it gives none: the last offset that has one, the first that
has none, and an access that is not 32 bits wide. -/
theorem test_bits_of_bus_accesses :
    bitsOfInput (readAccess 0xFFF) = some (48, 0x0FFF00000000) ∧
    bitsOfInput (readAccess 0x1000) = none ∧ bitsOfInput (.bus ⟨false, .w16, 0x04, 0⟩) = none := by
  decide

end Sys2Proof.Tests
end

/-!
PROOF of O48 (`00_scope.md` R2). One idea serves both engines: lay an engine's part of a state `s` over
any other state `u`. Each operation of that engine commutes with the overlay. With `u` a state the engine
cannot tell from `s`, that is noninterference; with `u = s`, it is the frame.
-/

namespace Sys2Proof.Machine

/-- Apply `f` to the next state of an outcome; a fault or a refusal stays. -/
def mapNext (f : State → State) : Outcome → Outcome
  | .next t => .next (f t)
  | .fault r => .fault r
  | .refused r => .refused r

/-- The part of `s` that the decoder sees (that of `SameDecoder`), over the rest of `u`. -/
def State.decoderOver (u s : State) : State :=
  { u with spd := s.spd, reg0Default := s.reg0Default, outputs := s.outputs }

/-- The part of `s` that the watchdog sees (that of `SameWatchdog`), over the rest of `u`. -/
def State.watchdogOver (u s : State) : State :=
  { u with wdg := s.wdg, now := s.now, prReadForm := s.prReadForm, outputs := s.outputs }

/-- An operation that commutes with `f` answers, from `f s`, the `f` of what it answers from `s`. -/
theorem next_of_commutes {op : State → Outcome} {f : State → State} {s t : State}
    (hc : op (f s) = mapNext f (op s)) (h : op s = .next t) : op (f s) = .next (f t) := by
  rw [hc, h]
  rfl

/-! ## The decoder's part -/

@[simp] theorem State.decoderOver_wdg (u s : State) : (u.decoderOver s).wdg = u.wdg := rfl

theorem State.decoderOver_self (s : State) : s.decoderOver s = s := rfl

theorem State.sameDecoder_decoderOver (u s : State) : SameDecoder s (u.decoderOver s) :=
  ⟨rfl, rfl, rfl⟩

theorem State.decoderOver_of_same {s u : State} (h : SameDecoder s u) : u.decoderOver s = u := by
  obtain ⟨hspd, hreg0, hout⟩ := h
  simp only [State.decoderOver, hspd, hreg0, hout]

/-- Selection reads the decoder's part alone. -/
theorem State.ifSelected_decoderOver (u s : State) (i : Instr) {o o' : Outcome}
    (ho : o' = mapNext u.decoderOver o) :
    (u.decoderOver s).ifSelected i o' = mapNext u.decoderOver (s.ifSelected i o) := by
  subst ho
  simp only [State.ifSelected, (u.sameDecoder_decoderOver s).1]
  split <;> rfl

/-- The latch and its fault depend on the byte alone. -/
theorem State.latchAddress_decoderOver (u s : State) (q : Sequencing) (v : Byte) :
    (u.decoderOver s).latchAddress q v = mapNext u.decoderOver (s.latchAddress q v) := by
  unfold State.latchAddress
  split <;> rfl

/-- The latched address is in the decoder's part. -/
theorem State.onLatched_decoderOver (u s : State) {f f' : TableAddr → State}
    (hf : ∀ a, f' a = u.decoderOver (f a)) :
    (u.decoderOver s).onLatched f' = mapNext u.decoderOver (s.onLatched f) := by
  obtain rfl : f' = fun a => u.decoderOver (f a) := funext hf
  simp only [State.onLatched, ← (u.sameDecoder_decoderOver s).1]
  split <;> rfl

/-- The decoder's half of R2: a serial operation acts on the decoder's part and
carries the rest of the state along. -/
theorem exec_decoderOver {i : Instr} (hi : isSerialOp i = true) (u s : State) :
    exec i (u.decoderOver s) = mapNext u.decoderOver (exec i s) := by
  cases i with
  | hdrWrite | hdrRead | spdReset => rfl
  | addrOor v | readDecoy v | readValue v | pulseNop | dataNop v =>
    exact State.ifSelected_decoderOver u s _ rfl
  | addrImplicitWrite v | addrImplicitRead v | addrLatch v =>
    exact State.ifSelected_decoderOver u s _ (State.latchAddress_decoderOver u s _ v)
  | dataCommit v | readSingle v =>
    exact State.ifSelected_decoderOver u s _ (State.onLatched_decoderOver u s fun _ => rfl)
  | _ => cases hi

/-! ## The watchdog's part -/

@[simp] theorem State.watchdogOver_spd (u s : State) : (u.watchdogOver s).spd = u.spd := rfl

theorem State.watchdogOver_self (s : State) : s.watchdogOver s = s := rfl

theorem State.sameWatchdog_watchdogOver (u s : State) : SameWatchdog s (u.watchdogOver s) :=
  ⟨rfl, rfl, rfl, rfl⟩

theorem State.watchdogOver_of_same {s u : State} (h : SameWatchdog s u) : u.watchdogOver s = u := by
  obtain ⟨hwdg, hnow, hform, hout⟩ := h
  simp only [State.watchdogOver, hwdg, hnow, hform, hout]

/-- The deadline is computed from the watchdog and the clock alone. -/
theorem State.schedule_watchdogOver (u s : State) (w : Watchdog) :
    (u.watchdogOver s).schedule w = mapNext u.watchdogOver (s.schedule w) := by
  obtain ⟨hwdg, hnow, -, -⟩ := u.sameWatchdog_watchdogOver s
  simp only [State.schedule, ← hwdg, ← hnow]
  split <;> rfl

/-- Whether the expiry reboots is the watchdog's to say. -/
theorem State.takeExpiry_watchdogOver (u s : State) :
    (u.watchdogOver s).takeExpiry = u.watchdogOver s.takeExpiry := by
  simp only [State.takeExpiry, ← (u.sameWatchdog_watchdogOver s).1]
  split <;> rfl

/-- An operation guarded by a bit of the watchdog commutes where both its branches do. -/
theorem ite_mapNext {f : State → State} {b : Bool} {o₁ o₁' o₂ o₂' : Outcome}
    (h₁ : o₁' = mapNext f o₁) (h₂ : o₂' = mapNext f o₂) :
    (if b = true then o₁' else o₂') = mapNext f (if b = true then o₁ else o₂) := by
  rw [h₁, h₂, ← apply_ite]

/-- The watchdog's half of R2: a watchdog operation acts on the watchdog's part and
carries the rest of the state along. -/
theorem exec_watchdogOver {i : Instr} (hi : isSerialOp i = false) (u s : State) :
    exec i (u.watchdogOver s) = mapNext u.watchdogOver (exec i s) := by
  cases i with
  | krUnlock _ | krOther _ | srWrite _ | krRead | prRead | rlrRead | srRead | unmappedWrite _ _
  | unmappedRead _ | wdgReset => rfl
  | krEnable _ => exact State.schedule_watchdogOver u s _
  | krRefresh _ => exact ite_mapNext (State.schedule_watchdogOver u s _) rfl
  | prWrite _ | rlrWrite _ => exact ite_mapNext rfl rfl
  | wdgExpire => exact ite_mapNext (congrArg _ (State.takeExpiry_watchdogOver u s)) rfl
  | _ => cases hi

/-! ## Frame and noninterference -/

/-- The frame of a serial operation: all but the decoder's part is as before. -/
theorem exec_serial_frame {i : Instr} {s t : State} (hi : isSerialOp i = true)
    (h : exec i s = .next t) : t = s.decoderOver t := by
  have hover := next_of_commutes (exec_decoderOver hi s s) h
  rw [State.decoderOver_self, h] at hover
  injection hover

/-- The frame of a watchdog operation: all but the watchdog's part is as before. -/
theorem exec_watchdog_frame {i : Instr} {s t : State} (hi : isSerialOp i = false)
    (h : exec i s = .next t) : t = s.watchdogOver t := by
  have hover := next_of_commutes (exec_watchdogOver hi s s) h
  rw [State.watchdogOver_self, h] at hover
  injection hover

/-- From states the decoder cannot tell apart, a serial operation answers such states. -/
theorem exec_serial_noninterference {i : Instr} {s s' t : State} (hi : isSerialOp i = true)
    (hs : SameDecoder s s') (h : exec i s = .next t) :
    ∃ t', exec i s' = .next t' ∧ SameDecoder t t' := by
  have hover := next_of_commutes (exec_decoderOver hi s' s) h
  rw [State.decoderOver_of_same hs] at hover
  exact ⟨_, hover, State.sameDecoder_decoderOver s' t⟩

/-- From states the watchdog cannot tell apart, a watchdog operation answers such states. -/
theorem exec_watchdog_noninterference {i : Instr} {s s' t : State} (hi : isSerialOp i = false)
    (hs : SameWatchdog s s') (h : exec i s = .next t) :
    ∃ t', exec i s' = .next t' ∧ SameWatchdog t t' := by
  have hover := next_of_commutes (exec_watchdogOver hi s' s) h
  rw [State.watchdogOver_of_same hs] at hover
  exact ⟨_, hover, State.sameWatchdog_watchdogOver s' t⟩

/-- Settles O48: every operation commutes with the overlay of its own engine's part, which gives the
frames and, for two states that part is common to, the noninterference. -/
theorem enginesAreIndependent : Obligations.EnginesAreIndependent :=
  ⟨fun _ _ _ h =>
      ⟨fun hi => (congrArg State.wdg (exec_serial_frame hi h)).trans (State.decoderOver_wdg _ _),
        fun hi => (congrArg State.spd (exec_watchdog_frame hi h)).trans (State.watchdogOver_spd _ _)⟩,
    fun _ _ _ _ => exec_serial_noninterference,
    fun _ _ _ _ => exec_watchdog_noninterference⟩

end Sys2Proof.Machine

/-!
PROOF of O8, O11, O12, O13, O16, O17 and O21 (`40_watchdog.md`). A write to KR is taken apart once, by
its key (`decodeKey`), and what every operation can do to the lock is said once, by
`exec_keeps_unlocked`.
-/

namespace Sys2Proof.Machine

/-! ## A write to KR, by its key -/

section
variable {w : Word}

theorem decode_writeAccess_kr (q : Sequencing) (w : Word) :
    decode q (writeAccess 0x00 w) = .ok (decodeKey w) := rfl

theorem decodeKey_enable (h : keyField w = 0xCCCC) : decodeKey w = .krEnable (keyIgnored w) :=
  if_pos h

theorem decodeKey_refresh (h : keyField w = 0xAAAA) : decodeKey w = .krRefresh (keyIgnored w) := by
  simp [decodeKey, h]

theorem decodeKey_unlock (h : keyField w = 0x5555) : decodeKey w = .krUnlock (keyIgnored w) := by
  simp [decodeKey, h]

theorem decodeKey_other (hE : keyField w ≠ 0xCCCC) (hR : keyField w ≠ 0xAAAA)
    (hU : keyField w ≠ 0x5555) : decodeKey w = .krOther w := by
  unfold decodeKey
  rw [if_neg hE, if_neg hR, if_neg hU]

/-- A key is not `k` when the low half of the word, read as a number, is not. -/
theorem keyField_ne {k : BitVec 16} (h : w.toNat % 2 ^ 16 ≠ k.toNat) : keyField w ≠ k := by
  rintro rfl
  exact h (keyField_toNat w).symm

end

/-! ## The upper half of a KR write is read by no rule -/

theorem exec_krEnable_congr (hi hi' : BitVec 16) (s : State) :
    exec (.krEnable hi) s = exec (.krEnable hi') s := rfl

theorem exec_krRefresh_congr (hi hi' : BitVec 16) (s : State) :
    exec (.krRefresh hi) s = exec (.krRefresh hi') s := rfl

theorem exec_krUnlock_congr (hi hi' : BitVec 16) (s : State) :
    exec (.krUnlock hi) s = exec (.krUnlock hi') s := rfl

theorem exec_krOther (w : Word) (s : State) : exec (.krOther w) s = .next s := rfl

/-- Settles O8: the operation is `decodeKey` of the word, whose key field is `key`; each key then has its
own row, and the upper half kept in that row is an operand without effect. -/
theorem keyIsTheLowHalfComparedWhole : Obligations.KeyIsTheLowHalfComparedWhole := by
  intro q hi key s
  have hkey := keyField_keyWord hi key
  refine ⟨decodeKey (keyWord hi key), decode_writeAccess_kr q _, ?_, ?_, ?_, ?_⟩
  · rintro rfl
    rw [decodeKey_enable hkey]
    exact exec_krEnable_congr _ _ s
  · rintro rfl
    rw [decodeKey_refresh hkey]
    exact exec_krRefresh_congr _ _ s
  · rintro rfl
    rw [decodeKey_unlock hkey]
    exact exec_krUnlock_congr _ _ s
  · intro hE hR hU
    rw [← hkey] at hE hR hU
    rw [decodeKey_other hE hR hU]
    exact exec_krOther _ s

/-- Settles O12: a low half that is none of the three numbers is a key that is none of the three keys. -/
theorem otherKeysAreIgnored : Obligations.OtherKeysAreIgnored := by
  intro q w s hE hR hU
  refine ⟨?_, exec_krOther w s⟩
  rw [decode_writeAccess_kr, decodeKey_other (keyField_ne hE) (keyField_ne hR) (keyField_ne hU)]

/-! ## The lock -/

theorem exec_krUnlock (hi : BitVec 16) (s : State) :
    exec (.krUnlock hi) s = .next { s with wdg := { s.wdg with unlocked := true } } := rfl

/-- R74: from an unlocked state every operation answers an unlocked one, but for the two resets. -/
theorem exec_keeps_unlocked {i : Instr} {s t : State} (h : exec i s = .next t)
    (hu : s.wdg.unlocked = true) :
    t.wdg.unlocked = true ∨ i = .wdgReset ∨ (i = .wdgExpire ∧ s.wdg.rebootOnExpiry = true) := by
  cases hser : isSerialOp i with
  | true =>
    rw [exec_serial_frame hser h]
    exact .inl hu
  | false =>
    cases i with
    | krEnable hi =>
      obtain ⟨d, -, rfl⟩ := execKrEnable_next (hi := hi) h
      exact .inl hu
    | krRefresh hi =>
      obtain ⟨-, d, -, rfl⟩ | ⟨-, rfl⟩ := execKrRefresh_next (hi := hi) h <;> exact .inl hu
    | krUnlock _ =>
      cases h
      exact .inl rfl
    | prWrite _ =>
      obtain ⟨-, rfl⟩ | ⟨-, rfl⟩ := execPrWrite_next h <;> exact .inl hu
    | rlrWrite _ =>
      obtain ⟨-, rfl⟩ | ⟨-, rfl⟩ := execRlrWrite_next h <;> exact .inl hu
    | krOther _ | srWrite _ | krRead | prRead | rlrRead | srRead | unmappedWrite _ _
    | unmappedRead _ =>
      cases h
      exact .inl hu
    | wdgReset => exact .inr (.inl rfl)
    | wdgExpire =>
      obtain ⟨-, rfl⟩ := execWdgExpire_next h
      cases hr : s.wdg.rebootOnExpiry with
      | true => exact .inr (.inr ⟨rfl, rfl⟩)
      | false =>
        rw [State.takeExpiry_inert hr]
        exact .inl hu
    | _ => cases hser

/-- Settles O11: the effect is `exec_krUnlock`, and the ways back to locked are those
`exec_keeps_unlocked` leaves open. -/
theorem unlockKeyOnlyUnlocks : Obligations.UnlockKeyOnlyUnlocks := by
  refine ⟨exec_krUnlock, ?_, ?_⟩
  · intro hi s t h
    cases h
    exact exec_krUnlock hi _
  · intro i s t h hu hl
    exact (exec_keeps_unlocked h hu).resolve_left (Bool.eq_false_iff.mp hl)

/-! ## PR and RLR -/

theorem prField_eq_ofNat (w : Word) : prField w = BitVec.ofNat 3 (w.toNat % 8) := by
  rw [← prField_toNat, BitVec.ofNat_toNat, BitVec.setWidth_eq]

theorem exec_prWrite_unlocked (w : Word) {s : State} (h : s.wdg.unlocked = true) :
    exec (.prWrite w) s = .next { s with wdg := { s.wdg with prescalerRaw := prField w } } :=
  if_pos h

theorem exec_prWrite_locked (w : Word) {s : State} (h : s.wdg.unlocked = false) :
    exec (.prWrite w) s = .next s :=
  if_neg (Bool.eq_false_iff.mp h)

/-- Settles O13: the two branches of the lock, with the stored field as a number. -/
theorem prescalerWriteIsGatedByTheLock : Obligations.PrescalerWriteIsGatedByTheLock := by
  intro w s
  refine ⟨fun hu => ?_, exec_prWrite_locked w⟩
  rw [exec_prWrite_unlocked w hu, prField_eq_ofNat]

/-- The 12 stored bits fit the word of a bus read. -/
theorem rlrReadValue_toNat (rl : BitVec 12) : (rlrReadValue rl).toNat = rl.toNat :=
  BitVec.toNat_setWidth_of_le (by decide)

/-- Settles O16: the answer is `rlrReadValue`, which loses no bit. -/
theorem reloadReadReturnsTheStoredValue : Obligations.ReloadReadReturnsTheStoredValue :=
  fun s => ⟨rlrReadValue s.wdg.reloadRegister, rlrReadValue_toNat _, rfl⟩

/-- Settles O17: `KR_READ` is the answer 0 in every state. -/
theorem keyRegisterReadsAsZero : Obligations.KeyRegisterReadsAsZero := fun _ => rfl

/-! ## The watchdog's reset -/

theorem exec_wdgReset (s : State) : exec .wdgReset s = .next { s with wdg := s.wdg.reset } := rfl

/-- `reset()` is idempotent: it reads no field but the latch, which it keeps (R80). -/
theorem Watchdog.reset_reset (w : Watchdog) : w.reset.reset = w.reset := rfl

/-- Settles O21: `WDG_RESET` is `Watchdog.reset`, which is idempotent. -/
theorem watchdogResetKeepsOnlyTheLatch : Obligations.WatchdogResetKeepsOnlyTheLatch := by
  intro s
  refine ⟨{ s with wdg := s.wdg.reset }, exec_wdgReset s, rfl, ?_⟩
  rw [exec_wdgReset, Watchdog.reset_reset]

end Sys2Proof.Machine

/-!
PROOF of O23 and O32 (`41_serial_decoder.md`): the two header bytes, and the byte that neither commits
nor clocks. For the latter, the condition of its row of R56 is brought once to R103's own words; in a
state that meets it, the byte is decoded to that row and the row is performed.
-/

namespace Sys2Proof.Machine

/-! ## Headers -/

/-- R91: the write header is tested before the decoder's state is looked at. -/
theorem decodeByte_hdrWrite (q : Sequencing) : decodeByte q Config.hdrWrite = .hdrWrite := if_pos rfl

/-- R92: so is the read header, which is not the write header. -/
theorem decodeByte_hdrRead (q : Sequencing) : decodeByte q Config.hdrRead = .hdrRead := by
  unfold decodeByte
  rw [if_neg (by decide), if_pos rfl]

theorem exec_hdrWrite (s : State) :
    exec .hdrWrite s =
      .next ((s.withSeq { s.spd.seq with pendingWrite := true }).respond Config.noResponse) := rfl

theorem exec_hdrRead (s : State) :
    exec .hdrRead s =
      .next ((s.withSeq { s.spd.seq with pendingRead := true }).respond Config.noResponse) := rfl

/-- Settles O23: each header byte is decoded before any other test, and its row is performed without a
condition. -/
theorem headersSetTheirFlagInEveryState : Obligations.HeadersSetTheirFlagInEveryState :=
  fun s => ⟨congrArg Except.ok (decodeByte_hdrWrite s.spd.seq),
    congrArg Except.ok (decodeByte_hdrRead s.spd.seq), exec_hdrWrite s, exec_hdrRead s⟩

/-! ## The byte that neither commits nor clocks -/

section
variable {q : Sequencing} {v : Byte} {a : TableAddr}

/-- A byte equal to the latched address is no synchronization pulse: the pulse at address 0 is data. -/
theorem isPulse_of_toNat_eq (h : v.toNat = a.val) : isPulse a v = false := by
  rw [isPulse_eq_false]
  rintro ⟨rfl, ha⟩
  exact ha (Fin.ext h.symm)

/-- The row of R103 among the bytes after a latched address: no read is pending, and under a pending
write the byte is the address. -/
theorem Sequencing.selects_dataNop (ha : q.latchedAddress = some a) :
    q.selects (.dataNop v) = true ↔
      isHeader v = false ∧ q.pendingRead = false ∧ (q.pendingWrite = true → v.toNat = a.val) := by
  have hrow : q.selects (.dataNop v) =
      (!isHeader v && !q.pendingRead && !q.commits v && !(isPulse a v && q.pendingWrite)) := by
    simp [Sequencing.selects, Sequencing.latchedIs, isPulse, ha, bne]
  simp only [hrow, Bool.and_eq_true, Bool.not_eq_true', and_assoc]
  refine and_congr_right fun _ => and_congr_right fun _ => ?_
  cases hw : q.pendingWrite with
  | false => simp [Sequencing.commits, ha, hw]
  | true =>
    cases hp : isPulse a v with
    | false => simp [Sequencing.commits, ha, hw, hp]
    | true =>
      have hne : v.toNat ≠ a.val := fun h => by simp [isPulse_of_toNat_eq h] at hp
      simp [hne]

/-- R56 names the row of R103 where its condition holds. -/
theorem decodeByte_dataNop (ha : q.latchedAddress = some a) (h : q.selects (.dataNop v) = true) :
    decodeByte q v = .dataNop v := by
  obtain ⟨hv, hr, hwa⟩ := (Sequencing.selects_dataNop ha).mp h
  obtain ⟨hW, hR⟩ := isHeader_eq_false.mp hv
  simp only [decodeByte, if_neg hW, if_neg hR, ha, hr]
  cases hw : q.pendingWrite with
  | false => simp
  | true => simpa [hwa hw] using isPulse_eq_false.mp (isPulse_of_toNat_eq (hwa hw))

end

/-- R103: where it is selected, the operation answers `0x00` and does nothing else. -/
theorem exec_dataNop {s : State} {v : Byte} (h : s.spd.seq.selects (.dataNop v) = true) :
    exec (.dataNop v) s = .next (s.respond Config.noResponse) :=
  State.ifSelected_of _ h

/-- Settles O32: the hypotheses are the condition of the row of R103, under which the byte is decoded to
it and the operation is performed. -/
theorem dataEqualToTheAddressIsDropped : Obligations.DataEqualToTheAddressIsDropped := by
  intro s v a ha hr hW hR hcase
  have hwa : s.spd.seq.pendingWrite = true → v.toNat = a.val := fun hw =>
    hcase.resolve_right (by simp [hw])
  have hsel : s.spd.seq.selects (.dataNop v) = true :=
    (Sequencing.selects_dataNop ha).mpr ⟨isHeader_eq_false.mpr ⟨hW, hR⟩, hr, hwa⟩
  exact ⟨congrArg Except.ok (decodeByte_dataNop ha hsel), exec_dataNop hsel⟩

end Sys2Proof.Machine

/-!
PROOF of O44 (`70_reset_and_hazards.md` R143): what no reset restores. The latch is the watchdog's, so
only the watchdog's operations are looked at, and of these only the expiry writes it. The table is the
decoder's, so only the serial operations are looked at, and of these only the commit stores.
-/

namespace Sys2Proof.Machine

/-! ## The latch -/

/-- An expiry sets the latch or leaves it; either way a set latch stays set (R81). -/
theorem State.takeExpiry_keeps_lastExpiryFlag {s : State} (hf : s.wdg.lastExpiryFlag = true) :
    s.takeExpiry.wdg.lastExpiryFlag = true := by
  cases hr : s.wdg.rebootOnExpiry with
  | true => rw [State.takeExpiry_reboot hr]
  | false =>
    rw [State.takeExpiry_inert hr]
    exact hf

/-- R143, the latch: no operation clears it, `reset()` and the expiry's own `reset()` included. -/
theorem exec_keeps_lastExpiryFlag {i : Instr} {s t : State} (h : exec i s = .next t)
    (hf : s.wdg.lastExpiryFlag = true) : t.wdg.lastExpiryFlag = true := by
  cases hser : isSerialOp i with
  | true =>
    rw [exec_serial_frame hser h]
    exact hf
  | false =>
    cases i with
    | krEnable hi =>
      obtain ⟨d, -, rfl⟩ := execKrEnable_next (hi := hi) h
      exact hf
    | krRefresh hi =>
      obtain ⟨-, d, -, rfl⟩ | ⟨-, rfl⟩ := execKrRefresh_next (hi := hi) h <;> exact hf
    | prWrite _ =>
      obtain ⟨-, rfl⟩ | ⟨-, rfl⟩ := execPrWrite_next h <;> exact hf
    | rlrWrite _ =>
      obtain ⟨-, rfl⟩ | ⟨-, rfl⟩ := execRlrWrite_next h <;> exact hf
    | krUnlock _ | krOther _ | srWrite _ | krRead | prRead | rlrRead | srRead | unmappedWrite _ _
    | unmappedRead _ | wdgReset =>
      cases h
      exact hf
    | wdgExpire =>
      obtain ⟨-, rfl⟩ := execWdgExpire_next h
      exact State.takeExpiry_keeps_lastExpiryFlag hf
    | _ => cases hser

/-! ## The Register Table -/

/-- `DATA_COMMIT` is the block's only store (R98): every other operation keeps the whole table. -/
theorem exec_keeps_table {i : Instr} {s t : State} (h : exec i s = .next t)
    (hi : ∀ v, i ≠ .dataCommit v) (a : Nat) : t.tableRead a = s.tableRead a := by
  cases hser : isSerialOp i with
  | false =>
    rw [exec_watchdog_frame hser h]
    rfl
  | true =>
    cases i with
    | hdrWrite | hdrRead | spdReset =>
      cases h
      rfl
    | addrOor v => exact absurd h execAddrOor_not_next
    | addrImplicitWrite v =>
      obtain ⟨-, _, rfl⟩ := execAddrImplicitWrite_next h
      rfl
    | addrImplicitRead v =>
      obtain ⟨-, _, rfl⟩ := execAddrImplicitRead_next h
      rfl
    | addrLatch v =>
      obtain ⟨-, _, rfl⟩ := execAddrLatch_next h
      rfl
    | dataCommit v => exact absurd rfl (hi v)
    | readDecoy v =>
      obtain ⟨-, rfl⟩ := execReadDecoy_next h
      rfl
    | readValue v =>
      obtain ⟨-, rfl⟩ := execReadValue_next h
      rfl
    | readSingle v =>
      obtain ⟨-, _, -, rfl⟩ := execReadSingle_next h
      rfl
    | pulseNop =>
      obtain ⟨-, rfl⟩ := execPulseNop_next h
      rfl
    | dataNop v =>
      obtain ⟨-, rfl⟩ := execDataNop_next h
      rfl
    | _ => cases hser

/-- A commit stores at the latched address and keeps every other entry (R98). -/
theorem exec_dataCommit_keeps_other {v : Byte} {s t : State} (h : exec (.dataCommit v) s = .next t)
    {a : Nat} (ha : ∀ A : TableAddr, s.spd.seq.latchedAddress = some A → a ≠ A.val) :
    t.tableRead a = s.tableRead a := by
  obtain ⟨-, A, hA, rfl⟩ := execDataCommit_next h
  rw [State.respond_tableRead, State.toIdle_tableRead, State.tableRead_tableWrite_other s A v (ha A hA)]

/-- Settles O44: no operation clears the latch, and of all operations only a commit stores, at the
latched address alone. -/
theorem latchAndTableSurviveEveryReset : Obligations.LatchAndTableSurviveEveryReset := by
  intro i s t h
  refine ⟨exec_keeps_lastExpiryFlag h, fun a ha => ?_⟩
  by_cases hi : ∃ v, i = .dataCommit v
  · obtain ⟨v, rfl⟩ := hi
    exact exec_dataCommit_keeps_other h fun A => ha A v rfl
  · exact exec_keeps_table h (not_exists.mp hi) a

end Sys2Proof.Machine

/-!
PROOF of O5 and O7 (`30_encoding.md` R51, R53) and the lemmas on format WB that O4 needs: an access and
the row it falls under determine each other, and so do an access and its packed word.
-/

namespace Sys2Proof.Machine

/-! ## The row of a 32-bit access -/

theorem isOtherKey_iff {k : BitVec 16} :
    isOtherKey k = true ↔ k ≠ 0xCCCC ∧ k ≠ 0xAAAA ∧ k ≠ 0x5555 := by
  simp [isOtherKey, and_assoc]

theorem isUnmapped_iff {off : Nat} :
    isUnmapped off = true ↔ off ≠ 0x00 ∧ off ≠ 0x04 ∧ off ≠ 0x08 ∧ off ≠ 0x0C := by
  simp [isUnmapped, and_assoc]

/-- `i` is a row of format WB whose one access is `inp` (R53). -/
def BusRow (i : Instr) (inp : Input) : Prop :=
  i.wellFormed = true ∧ i.format = .wb ∧ encode i = inp

/-- A write to KR falls under the row of its key, which keeps the upper half (R52). -/
theorem decodeKey_busRow (w : Word) : BusRow (decodeKey w) (writeAccess 0x00 w) := by
  have hword : ∀ k, keyField w = k → writeAccess 0x00 (keyWord (keyIgnored w) k) = writeAccess 0x00 w := by
    rintro k rfl
    rw [keyWord_fields]
  unfold decodeKey
  split_ifs with hE hR hU
  · exact ⟨rfl, rfl, hword _ hE⟩
  · exact ⟨rfl, rfl, hword _ hR⟩
  · exact ⟨rfl, rfl, hword _ hU⟩
  · exact ⟨isOtherKey_iff.mpr ⟨hE, hR, hU⟩, rfl, rfl⟩

theorem decodeWrite_busRow (off : Nat) (w : Word) : BusRow (decodeWrite off w) (writeAccess off w) := by
  unfold decodeWrite
  split_ifs with hkr hpr hrlr hsr
  · exact hkr ▸ decodeKey_busRow w
  · exact ⟨rfl, rfl, hpr ▸ rfl⟩
  · exact ⟨rfl, rfl, hrlr ▸ rfl⟩
  · exact ⟨rfl, rfl, hsr ▸ rfl⟩
  · exact ⟨isUnmapped_iff.mpr ⟨hkr, hpr, hrlr, hsr⟩, rfl, rfl⟩

theorem decodeRead_busRow (off : Nat) : BusRow (decodeRead off) (readAccess off) := by
  unfold decodeRead
  split_ifs with hkr hpr hrlr hsr
  · exact ⟨rfl, rfl, hkr ▸ rfl⟩
  · exact ⟨rfl, rfl, hpr ▸ rfl⟩
  · exact ⟨rfl, rfl, hrlr ▸ rfl⟩
  · exact ⟨rfl, rfl, hsr ▸ rfl⟩
  · exact ⟨isUnmapped_iff.mpr ⟨hkr, hpr, hrlr, hsr⟩, rfl, rfl⟩

theorem decode_writeAccess (q : Sequencing) (off : Nat) (w : Word) :
    decode q (writeAccess off w) = .ok (decodeWrite off w) := rfl

/-- The decoder ignores what a read presents as `wdata` (R51). -/
theorem decode_read (q : Sequencing) (off : Nat) (w : Word) :
    decode q (.bus ⟨false, .w32, off, w⟩) = .ok (decodeRead off) := rfl

/-- Settles O7: a write falls under `decodeWrite`, a read under `decodeRead`, and both are rows of the
access with the ignored word zero. -/
theorem everyWordAccessIsOneBusOperation : Obligations.EveryWordAccessIsOneBusOperation := by
  rintro q ⟨write, width, off, w⟩ hwidth
  obtain rfl : width = .w32 := hwidth
  cases write with
  | true => exact ⟨_, decode_writeAccess q off w, decodeWrite_busRow off w⟩
  | false => exact ⟨_, decode_read q off w, decodeRead_busRow off⟩

/-! ## From the row back to the access -/

theorem decodeWrite_unmapped {off : Nat} (w : Word) (h : isUnmapped off = true) :
    decodeWrite off w = .unmappedWrite off w := by
  obtain ⟨hkr, hpr, hrlr, hsr⟩ := isUnmapped_iff.mp h
  simp [decodeWrite, hkr, hpr, hrlr, hsr]

theorem decodeRead_unmapped {off : Nat} (h : isUnmapped off = true) :
    decodeRead off = .unmappedRead off := by
  obtain ⟨hkr, hpr, hrlr, hsr⟩ := isUnmapped_iff.mp h
  simp [decodeRead, hkr, hpr, hrlr, hsr]

/-- The access of a well-formed operation of format WB falls under that operation's row. -/
theorem decodeBus_of_encode {i : Instr} {a : BusAccess} (hwf : i.wellFormed = true)
    (henc : encode i = .bus a) : decodeBus a = .ok i := by
  cases i with
  | krEnable hi =>
    cases henc
    exact congrArg Except.ok ((decodeKey_enable (keyField_keyWord _ _)).trans (by simp))
  | krRefresh hi =>
    cases henc
    exact congrArg Except.ok ((decodeKey_refresh (keyField_keyWord _ _)).trans (by simp))
  | krUnlock hi =>
    cases henc
    exact congrArg Except.ok ((decodeKey_unlock (keyField_keyWord _ _)).trans (by simp))
  | krOther w =>
    cases henc
    obtain ⟨hE, hR, hU⟩ := isOtherKey_iff.mp hwf
    exact congrArg Except.ok (decodeKey_other hE hR hU)
  | unmappedWrite off w =>
    cases henc
    exact congrArg Except.ok (decodeWrite_unmapped w hwf)
  | unmappedRead off =>
    cases henc
    exact congrArg Except.ok (decodeRead_unmapped hwf)
  | prWrite _ | rlrWrite _ | srWrite _ | krRead | prRead | rlrRead | srRead =>
    cases henc
    rfl
  | _ => cases henc

/-! ## The packed word -/

/-- The accesses that have a packed word from which nothing is dropped: 32 bits wide, with an offset of
12 bits, and a read with its ignored word zero (R51). -/
structure BusAccess.Packed (a : BusAccess) : Prop where
  width : a.width = .w32
  offset : a.offset < 2 ^ 12
  wdata : a.write = false → a.wdata = 0

/-- The bits of the packed word: `wdata` below 32, the offset below 44, `op` at 44 (R51). -/
theorem packAccess_getLsbD (a : BusAccess) (k : Nat) :
    (packAccess a).getLsbD k =
      if k < 44 then
        if k < 32 then a.wdata.getLsbD k else (BitVec.ofNat 12 a.offset).getLsbD (k - 32)
      else (BitVec.ofBool a.write).getLsbD (k - 44) := by
  have hlow := BitVec.getLsbD_append (x := BitVec.ofNat 12 a.offset) (y := a.wdata) (i := k)
  have hword := BitVec.getLsbD_append (x := BitVec.ofBool a.write)
    (y := BitVec.ofNat 12 a.offset ++ a.wdata) (i := k)
  rwa [hlow] at hword

theorem packAccess_write (a : BusAccess) : (packAccess a).getLsbD 44 = a.write :=
  (packAccess_getLsbD a 44).trans (by simp)

theorem packAccess_wdata (a : BusAccess) : (packAccess a).extractLsb' 0 32 = a.wdata := by
  refine BitVec.eq_of_getLsbD_eq fun k hk => ?_
  have h44 : k < 44 := by omega
  simp [packAccess_getLsbD, hk, h44]

theorem packAccess_offset (a : BusAccess) :
    (packAccess a).extractLsb' 32 12 = BitVec.ofNat 12 a.offset := by
  refine BitVec.eq_of_getLsbD_eq fun k hk => ?_
  have h44 : 32 + k < 44 := by omega
  simp [packAccess_getLsbD, hk, h44]

theorem unpackAccess_packAccess {a : BusAccess} (h : a.Packed) : unpackAccess (packAccess a) = a := by
  obtain ⟨write, width, off, w⟩ := a
  obtain ⟨hwidth, hoff, hw⟩ := h
  simp only at hwidth hoff hw
  simp only [unpackAccess, packAccess_write, packAccess_wdata, packAccess_offset, BitVec.toNat_ofNat,
    Nat.mod_eq_of_lt hoff, hwidth]
  cases write with
  | true => rfl
  | false => simp [hw rfl]

/-- A write word is cut into its three fields and nothing else. -/
theorem packAccess_unpackAccess {w : BitVec 45} (h : w.getLsbD 44 = true) :
    packAccess (unpackAccess w) = w := by
  refine BitVec.eq_of_getLsbD_eq fun k hk => ?_
  rw [packAccess_getLsbD]
  simp only [unpackAccess, h, if_true, BitVec.ofNat_toNat, BitVec.setWidth_eq,
    BitVec.getLsbD_extractLsb']
  split_ifs with h44 h32
  · simp [h32]
  · have h12 : k - 32 < 12 := by omega
    have hsum : 32 + (k - 32) = k := by omega
    simp [h12, hsum]
  · obtain rfl : k = 44 := by omega
    simp [h]

/-- An operation of format WB whose offset fits has a packed access. -/
theorem packed_of_encode {i : Instr} {a : BusAccess} (hp : i.packable = true)
    (henc : encode i = .bus a) : a.Packed := by
  cases i with
  | unmappedWrite off w =>
    cases henc
    exact ⟨rfl, of_decide_eq_true hp, Bool.noConfusion⟩
  | unmappedRead off =>
    cases henc
    exact ⟨rfl, of_decide_eq_true hp, fun _ => rfl⟩
  | krEnable _ | krRefresh _ | krUnlock _ | krOther _ | prWrite _ | rlrWrite _ | srWrite _ =>
    cases henc
    exact ⟨rfl, by simp, Bool.noConfusion⟩
  | krRead | prRead | rlrRead | srRead =>
    cases henc
    exact ⟨rfl, by simp, fun _ => rfl⟩
  | _ => cases henc

theorem inputOfBits_bus (w : BitVec 45) : inputOfBits 48 w.toNat = some (.bus (unpackAccess w)) := by
  simp [inputOfBits, w.isLt]

/-- Settles O5: the packed word is unpacked to its access, which falls under the operation's row. -/
theorem packedWordsOfBusOperationsRoundTrip : Obligations.PackedWordsOfBusOperationsRoundTrip := by
  refine ⟨fun i a hwf hp henc => ?_, fun w => packAccess_unpackAccess⟩
  have hdec : decode Sequencing.idle (.bus a) = .ok i := decodeBus_of_encode hwf henc
  simp only [decodeTableWord, inputOfBits_bus, unpackAccess_packAccess (packed_of_encode hp henc), hdec]

end Sys2Proof.Machine

/-!
PROOF of O4 and O6 (`30_encoding.md` R56), and what O34 needs of them: the rows of format SB. The
decoder is read once for each of its two states, with and without a latched address; from this, the row
of a byte selects itself, no other row does, and its operation is `onTransferByte`.
-/

namespace Sys2Proof.Machine

section
variable {q : Sequencing} {v : Byte} {a : TableAddr}

/-! ## The row of a byte -/

/-- The rows of an address byte: out of range, after a header, or without one (R94 to R97). -/
theorem decodeByte_unlatched (hv : isHeader v = false) (hl : q.latchedAddress = none) :
    decodeByte q v =
      if 217 ≤ v.toNat then .addrOor v
      else if q.pendingWrite = true ∨ q.pendingRead = true then .addrLatch v
      else if v.toNat < 0x2F then .addrImplicitWrite v
      else .addrImplicitRead v := by
  obtain ⟨hW, hR⟩ := isHeader_eq_false.mp hv
  simp only [decodeByte, if_neg hW, if_neg hR, hl]
  cases q.pendingWrite <;> cases q.pendingRead <;> rfl

/-- The rows of a byte after the address: the commit test first, then a pending read, then the bytes
without an effect (R98 to R103). -/
theorem decodeByte_latched (hv : isHeader v = false) (ha : q.latchedAddress = some a) :
    decodeByte q v =
      if q.commits v = true then .dataCommit v
      else if q.pendingRead = true then
        if a = 0x73 then if q.readPhase = .awaitingValue then .readValue v else .readDecoy v
        else .readSingle v
      else if isPulse a v = true ∧ q.pendingWrite = true then .pulseNop
      else .dataNop v := by
  obtain ⟨hW, hR⟩ := isHeader_eq_false.mp hv
  simp only [decodeByte, if_neg hW, if_neg hR, ha, Sequencing.commits, isPulse, Bool.and_eq_true]

/-! ## The conditions of the rows that `Laws/Selects.lean` does not state -/

theorem Sequencing.selects_addrOor :
    q.selects (.addrOor v) = true ↔ q.latchedAddress = none ∧ 217 ≤ v.toNat := by
  simp [Sequencing.selects]

theorem Sequencing.selects_pulseNop :
    q.selects .pulseNop = true ↔
      ∃ a, q.latchedAddress = some a ∧ a ≠ 0 ∧ q.pendingWrite = true ∧ q.pendingRead = false := by
  cases h : q.latchedAddress <;> simp [Sequencing.selects, Sequencing.latchedIs, h, and_assoc]

theorem Sequencing.latched_of_selects_dataNop (h : q.selects (.dataNop v) = true) :
    ∃ a, q.latchedAddress = some a := by
  cases hl : q.latchedAddress with
  | none => simp [Sequencing.selects, hl] at h
  | some a => exact ⟨a, rfl⟩

/-- Without the commit, under a pending write, a byte is the address or the pulse. -/
theorem Sequencing.commits_eq_false (ha : q.latchedAddress = some a) :
    q.commits v = false ↔
      q.pendingWrite = true → v.toNat = a.val ∨ (v = 0 ∧ a ≠ 0) := by
  rw [← Bool.not_eq_true, Sequencing.commits_of_latched ha]
  tauto

/-- No byte that commits is zero: at address 0 it is the address, elsewhere the pulse (R98). -/
theorem Sequencing.ne_zero_of_commits (h : q.commits v = true) : v ≠ 0 := by
  obtain ⟨a, ha⟩ := Sequencing.commits_latched h
  obtain ⟨-, hne, hpulse⟩ := (Sequencing.commits_of_latched ha).mp h
  rintro rfl
  exact hpulse ⟨rfl, fun h0 => hne (h0 ▸ rfl)⟩

/-- A byte that is out of the table's range is no header. -/
theorem isHeader_of_ge (h : 217 ≤ v.toNat) : isHeader v = false := by
  rw [isHeader_eq_false]
  constructor <;> rintro rfl <;> exact absurd h (by decide)

theorem isHeader_of_lt (h : v.toNat < 0x2F) : isHeader v = false := by
  rw [isHeader_eq_false]
  constructor <;> rintro rfl <;> exact absurd h (by decide)

/-- A header aside, a byte that is not below the write header is above it. -/
theorem lt_toNat_of_not_header (hv : isHeader v = false) (h : ¬ v.toNat < 0x2F) : 0x2F < v.toNat := by
  have hne : v.toNat ≠ 0x2F := fun h' =>
    (isHeader_eq_false.mp hv).1 (BitVec.eq_of_toNat_eq h')
  omega

/-! ## Each byte selects its row -/

/-- The row `i` is one for the byte `v` in the sequencing state `q` (R56). -/
def SerialRow (q : Sequencing) (v : Byte) (i : Instr) : Prop :=
  i.wellFormed = true ∧ q.selects i = true ∧ encode i = .transfer v

theorem serialRow_unlatched (hv : isHeader v = false) (hl : q.latchedAddress = none) :
    SerialRow q v (decodeByte q v) := by
  rw [decodeByte_unlatched hv hl]
  split_ifs with hoor hflag hlow
  · exact ⟨decide_eq_true hoor, Sequencing.selects_addrOor.mpr ⟨hl, hoor⟩, rfl⟩
  · have hlt : v.toNat < 217 := by omega
    exact ⟨by simp [Instr.wellFormed, hlt, hv],
      Sequencing.selects_addrLatch.mpr ⟨hl, hflag, hv, hlt⟩, rfl⟩
  · obtain ⟨hw, hr⟩ : q.pendingWrite = false ∧ q.pendingRead = false := by simpa using hflag
    exact ⟨decide_eq_true hlow, Sequencing.selects_addrImplicitWrite.mpr ⟨hl, hw, hr, hlow⟩, rfl⟩
  · obtain ⟨hw, hr⟩ : q.pendingWrite = false ∧ q.pendingRead = false := by simpa using hflag
    have hlt : v.toNat < 217 := by omega
    have hgt := lt_toNat_of_not_header hv hlow
    have hR : v ≠ 0xAF := (isHeader_eq_false.mp hv).2
    exact ⟨by simpa [Instr.wellFormed, hlt, hgt] using hR,
      Sequencing.selects_addrImplicitRead.mpr ⟨hl, hw, hr, hv, hgt, hlt⟩, rfl⟩

theorem serialRow_latched (hv : isHeader v = false) (ha : q.latchedAddress = some a) :
    SerialRow q v (decodeByte q v) := by
  have hwf : (!isHeader v) = true := by simp [hv]
  have hclock : ¬ q.commits v = true → q.pendingRead = true → q.clocksRead v = true := fun hc hr =>
    Sequencing.clocksRead_iff.mpr ⟨hv, ⟨a, ha⟩, hr, Bool.eq_false_iff.mpr hc⟩
  rw [decodeByte_latched hv ha]
  split_ifs with hc hr h73 hp hpulse
  · exact ⟨by simpa [Instr.wellFormed, hv] using Sequencing.ne_zero_of_commits hc,
      Sequencing.selects_dataCommit.mpr ⟨hv, hc⟩, rfl⟩
  · exact ⟨hwf, Sequencing.selects_readValue.mpr ⟨hclock hc hr, ha.trans (congrArg some h73), hp⟩, rfl⟩
  · exact ⟨hwf, Sequencing.selects_readDecoy.mpr ⟨hclock hc hr, ha.trans (congrArg some h73), hp⟩, rfl⟩
  · exact ⟨hwf, Sequencing.selects_readSingle.mpr ⟨hclock hc hr, by simpa [ha] using h73⟩, rfl⟩
  · obtain ⟨hz, hw⟩ := hpulse
    obtain ⟨rfl, h0⟩ : v = 0 ∧ a ≠ 0 := by simpa [isPulse] using hz
    exact ⟨rfl, Sequencing.selects_pulseNop.mpr ⟨a, ha, h0, hw, Bool.eq_false_iff.mpr hr⟩, rfl⟩
  · have heq : q.pendingWrite = true → v.toNat = a.val := fun hw =>
      ((Sequencing.commits_eq_false ha).mp (Bool.eq_false_iff.mpr hc) hw).resolve_right
        fun hz => hpulse ⟨by simp [isPulse, hz], hw⟩
    exact ⟨hwf, (Sequencing.selects_dataNop ha).mpr ⟨hv, Bool.eq_false_iff.mpr hr, heq⟩, rfl⟩

theorem serialRow_decodeByte (q : Sequencing) (v : Byte) : SerialRow q v (decodeByte q v) := by
  by_cases hW : v = Config.hdrWrite
  · subst hW
    rw [decodeByte_hdrWrite]
    exact ⟨rfl, rfl, rfl⟩
  by_cases hR : v = Config.hdrRead
  · subst hR
    rw [decodeByte_hdrRead]
    exact ⟨rfl, rfl, rfl⟩
  have hv := isHeader_eq_false.mpr ⟨hW, hR⟩
  cases hl : q.latchedAddress with
  | none => exact serialRow_unlatched hv hl
  | some a => exact serialRow_latched hv hl

/-! ## No byte selects a second row -/

theorem decodeByte_addrOor (h : q.selects (.addrOor v) = true) : decodeByte q v = .addrOor v := by
  obtain ⟨hl, hge⟩ := Sequencing.selects_addrOor.mp h
  rw [decodeByte_unlatched (isHeader_of_ge hge) hl, if_pos hge]

theorem decodeByte_addrLatch (h : q.selects (.addrLatch v) = true) :
    decodeByte q v = .addrLatch v := by
  obtain ⟨hl, hflag, hv, hlt⟩ := Sequencing.selects_addrLatch.mp h
  rw [decodeByte_unlatched hv hl, if_neg (Nat.not_le.mpr hlt), if_pos hflag]

theorem decodeByte_addrImplicitWrite (h : q.selects (.addrImplicitWrite v) = true) :
    decodeByte q v = .addrImplicitWrite v := by
  obtain ⟨hl, hw, hr, hlt⟩ := Sequencing.selects_addrImplicitWrite.mp h
  rw [decodeByte_unlatched (isHeader_of_lt hlt) hl, if_neg (by omega), if_neg (by simp [hw, hr]),
    if_pos hlt]

theorem decodeByte_addrImplicitRead (h : q.selects (.addrImplicitRead v) = true) :
    decodeByte q v = .addrImplicitRead v := by
  obtain ⟨hl, hw, hr, hv, hgt, hlt⟩ := Sequencing.selects_addrImplicitRead.mp h
  rw [decodeByte_unlatched hv hl, if_neg (by omega), if_neg (by simp [hw, hr]), if_neg (by omega)]

theorem decodeByte_dataCommit (h : q.selects (.dataCommit v) = true) :
    decodeByte q v = .dataCommit v := by
  obtain ⟨hv, hc⟩ := Sequencing.selects_dataCommit.mp h
  obtain ⟨a, ha⟩ := Sequencing.commits_latched hc
  rw [decodeByte_latched hv ha, if_pos hc]

/-- A byte that clocks a pending read falls under one of the three rows of a read. -/
theorem decodeByte_clocksRead (h : q.clocksRead v = true) (ha : q.latchedAddress = some a) :
    decodeByte q v =
      if a = 0x73 then if q.readPhase = .awaitingValue then .readValue v else .readDecoy v
      else .readSingle v := by
  obtain ⟨hv, -, hr, hc⟩ := Sequencing.clocksRead_iff.mp h
  rw [decodeByte_latched hv ha, if_neg (Bool.eq_false_iff.mp hc), if_pos hr]

theorem decodeByte_readDecoy (h : q.selects (.readDecoy v) = true) :
    decodeByte q v = .readDecoy v := by
  obtain ⟨hclock, ha, hp⟩ := Sequencing.selects_readDecoy.mp h
  rw [decodeByte_clocksRead hclock ha, if_pos rfl, if_neg hp]

theorem decodeByte_readValue (h : q.selects (.readValue v) = true) :
    decodeByte q v = .readValue v := by
  obtain ⟨hclock, ha, hp⟩ := Sequencing.selects_readValue.mp h
  rw [decodeByte_clocksRead hclock ha, if_pos rfl, if_pos hp]

theorem decodeByte_readSingle (h : q.selects (.readSingle v) = true) :
    decodeByte q v = .readSingle v := by
  obtain ⟨hclock, hne⟩ := Sequencing.selects_readSingle.mp h
  obtain ⟨-, ⟨a, ha⟩, -, -⟩ := Sequencing.clocksRead_iff.mp hclock
  rw [decodeByte_clocksRead hclock ha, if_neg (by simpa [ha] using hne)]

theorem decodeByte_pulseNop (h : q.selects .pulseNop = true) : decodeByte q 0 = .pulseNop := by
  obtain ⟨a, ha, h0, hw, hr⟩ := Sequencing.selects_pulseNop.mp h
  have hc : q.commits 0 = false := (Sequencing.commits_eq_false ha).mpr fun _ => .inr ⟨rfl, h0⟩
  rw [decodeByte_latched (by decide) ha, if_neg (Bool.eq_false_iff.mp hc), if_neg (by simp [hr]),
    if_pos ⟨by simp [isPulse, h0], hw⟩]

/-- R56 is unambiguous: the row a byte selects is the decoded one. -/
theorem decodeByte_of_serialRow {i : Instr} (h : SerialRow q v i) : decodeByte q v = i := by
  obtain ⟨-, hsel, henc⟩ := h
  cases i with
  | hdrWrite => cases henc; exact decodeByte_hdrWrite q
  | hdrRead => cases henc; exact decodeByte_hdrRead q
  | addrOor w => cases henc; exact decodeByte_addrOor hsel
  | addrImplicitWrite w => cases henc; exact decodeByte_addrImplicitWrite hsel
  | addrImplicitRead w => cases henc; exact decodeByte_addrImplicitRead hsel
  | addrLatch w => cases henc; exact decodeByte_addrLatch hsel
  | dataCommit w => cases henc; exact decodeByte_dataCommit hsel
  | readDecoy w => cases henc; exact decodeByte_readDecoy hsel
  | readValue w => cases henc; exact decodeByte_readValue hsel
  | readSingle w => cases henc; exact decodeByte_readSingle hsel
  | pulseNop => cases henc; exact decodeByte_pulseNop hsel
  | dataNop w =>
    cases henc
    obtain ⟨a, ha⟩ := Sequencing.latched_of_selects_dataNop hsel
    exact decodeByte_dataNop ha hsel
  | _ => cases henc

end

/-- Settles O6: the decoded row is a row for the byte, and it is the only one. -/
theorem everyByteFallsUnderExactlyOneSerialRow : Obligations.EveryByteFallsUnderExactlyOneSerialRow :=
  fun q v => ⟨serialRow_decodeByte q v,
    fun _ hwf hsel henc => (decodeByte_of_serialRow ⟨hwf, hsel, henc⟩).symm⟩

/-! ## All three formats -/

/-- An event is its operation (R58). -/
theorem decodeEvent_of_encode {i : Instr} {e : Event} (henc : encode i = .event e) :
    decodeEvent e = i := by
  cases i with
  | wdgReset | wdgExpire | spdReset => cases henc; rfl
  | _ => cases henc

/-- Settles O4: by the format of the encoding, each with its own decoder. -/
theorem decodeOfEncodeIsTheOperation : Obligations.DecodeOfEncodeIsTheOperation := by
  intro q i hwf hsel
  cases henc : encode i with
  | bus a => exact decodeBus_of_encode hwf henc
  | transfer v => exact congrArg Except.ok (decodeByte_of_serialRow ⟨hwf, hsel, henc⟩)
  | event e => exact congrArg Except.ok (decodeEvent_of_encode henc)

end Sys2Proof.Machine

/-!
PROOF of O2, O24 to O31, O33 and O34 (`41_serial_decoder.md`): what each serial operation does where R56
selects it, and that this is `onTransferByte` of R105.
-/

namespace Sys2Proof.Machine

/-! ## What each row does where it is selected -/

section
variable {s : State} {v : Byte} {a : TableAddr}

theorem exec_addrOor (h : s.spd.seq.selects (.addrOor v) = true) :
    exec (.addrOor v) s = .fault .addrOutOfRange :=
  State.ifSelected_of _ h

theorem exec_addrImplicitWrite (h : s.spd.seq.selects (.addrImplicitWrite v) = true)
    (hv : v.toNat < 217) :
    exec (.addrImplicitWrite v) s =
      .next ((s.withSeq (Sequencing.latch { s.spd.seq with pendingWrite := true }
        ⟨v.toNat, hv⟩)).respond Config.noResponse) :=
  (State.ifSelected_of _ h).trans (State.latchAddress_of_lt hv)

theorem exec_addrImplicitRead (h : s.spd.seq.selects (.addrImplicitRead v) = true)
    (hv : v.toNat < 217) :
    exec (.addrImplicitRead v) s =
      .next ((s.withSeq (Sequencing.latch { s.spd.seq with pendingRead := true }
        ⟨v.toNat, hv⟩)).respond Config.noResponse) :=
  (State.ifSelected_of _ h).trans (State.latchAddress_of_lt hv)

theorem exec_addrLatch (h : s.spd.seq.selects (.addrLatch v) = true) (hv : v.toNat < 217) :
    exec (.addrLatch v) s =
      .next ((s.withSeq (s.spd.seq.latch ⟨v.toNat, hv⟩)).respond Config.noResponse) :=
  (State.ifSelected_of _ h).trans (State.latchAddress_of_lt hv)

theorem State.onLatched_of (f : TableAddr → State) (ha : s.spd.seq.latchedAddress = some a) :
    s.onLatched f = .next (f a) := by
  simp only [State.onLatched, ha]

theorem exec_dataCommit (h : s.spd.seq.selects (.dataCommit v) = true)
    (ha : s.spd.seq.latchedAddress = some a) :
    exec (.dataCommit v) s = .next ((s.tableWrite a v).toIdle.respond Config.noResponse) :=
  (State.ifSelected_of _ h).trans (State.onLatched_of _ ha)

theorem exec_readDecoy (h : s.spd.seq.selects (.readDecoy v) = true) :
    exec (.readDecoy v) s =
      .next { s with
        spd := { s.spd with
          seq := { s.spd.seq with readPhase := .awaitingValue }
          decoyHolder := s.tableRead 0x73 }
        outputs := .response 0x41 :: s.outputs } :=
  State.ifSelected_of _ h

theorem exec_readValue (h : s.spd.seq.selects (.readValue v) = true) :
    exec (.readValue v) s = .next (s.readLatched Config.statusAddr) :=
  State.ifSelected_of _ h

theorem exec_readSingle (h : s.spd.seq.selects (.readSingle v) = true)
    (ha : s.spd.seq.latchedAddress = some a) :
    exec (.readSingle v) s = .next (s.readLatched a) :=
  (State.ifSelected_of _ h).trans (State.onLatched_of _ ha)

theorem exec_pulseNop (h : s.spd.seq.selects .pulseNop = true) :
    exec .pulseNop s = .next (s.respond Config.noResponse) :=
  State.ifSelected_of _ h

end

/-! ## Address bytes -/

section
variable {v : Byte}

/-- The address of a table byte is `0x73` exactly when the byte is. -/
theorem addr_eq_status_iff (hv : v.toNat < 217) : (⟨v.toNat, hv⟩ : TableAddr) = 0x73 ↔ v = 0x73 :=
  Fin.ext_iff.trans (BitVec.toNat_inj (x := v) (y := 0x73#8))

/-- The latch of an address byte, with its test on the phase in the byte's own terms (R95, D16). -/
theorem Sequencing.latch_byte (q : Sequencing) (hv : v.toNat < 217) :
    q.latch ⟨v.toNat, hv⟩ =
      { q with
        latchedAddress := some ⟨v.toNat, hv⟩
        readPhase := if q.pendingRead = true ∧ v = 0x73 then .awaitingDecoy else q.readPhase } := by
  simp only [Sequencing.latch, Bool.and_eq_true, beq_iff_eq, Config.statusAddr_eq,
    addr_eq_status_iff hv]

end

/-- Settles O24: the byte's value selects its row, and the latch under the flag the row sets is
`Sequencing.latch_byte`. -/
theorem headerlessAddressTakesItsDirectionFromItsValue :
    Obligations.HeaderlessAddressTakesItsDirectionFromItsValue := by
  intro s v hv hl hw hr
  refine ⟨fun hlt => ?_, fun hgt hR => ?_⟩
  · have hsel := Sequencing.selects_addrImplicitWrite.mpr ⟨hl, hw, hr, hlt⟩
    rw [exec_addrImplicitWrite hsel hv, Sequencing.latch_byte]
    simp [State.respond, State.emit, State.withSeq, hr]
  · have hW : v ≠ 0x2F := by
      rintro rfl
      exact absurd hgt (by decide)
    have hsel := Sequencing.selects_addrImplicitRead.mpr
      ⟨hl, hw, hr, isHeader_eq_false.mpr ⟨hW, hR⟩, hgt, hv⟩
    rw [exec_addrImplicitRead hsel hv, Sequencing.latch_byte]
    simp [State.respond, State.emit, State.withSeq, hw]

/-- Settles O25: after a header the row is `ADDR_LATCH`, which is the latch alone. -/
theorem addressAfterAHeaderIsLatched : Obligations.AddressAfterAHeaderIsLatched := by
  intro s v hv hl hflag hW hR
  have hsel := Sequencing.selects_addrLatch.mpr ⟨hl, hflag, isHeader_eq_false.mpr ⟨hW, hR⟩, hv⟩
  rw [exec_addrLatch hsel hv, Sequencing.latch_byte]
  rfl

/-- Settles O26: the byte is the row of R97 whatever flags are set, and that row has no next state. -/
theorem outOfRangeAddressByteFaults : Obligations.OutOfRangeAddressByteFaults := by
  intro s v hl hge
  have hsel := Sequencing.selects_addrOor.mpr ⟨hl, hge⟩
  exact ⟨congrArg Except.ok (decodeByte_addrOor hsel), exec_addrOor hsel⟩

/-! ## The commit -/

/-- Settles O27: the byte passes the commit test, and the store is read back at its address alone. -/
theorem dataCommitStoresAtTheLatchedAddress : Obligations.DataCommitStoresAtTheLatchedAddress := by
  intro s v a ha hw hW hR h0 hne
  have hc := (Sequencing.commits_of_latched ha).mpr ⟨hw, hne, fun hz => h0 hz.1⟩
  have hsel := Sequencing.selects_dataCommit.mpr ⟨isHeader_eq_false.mpr ⟨hW, hR⟩, hc⟩
  refine ⟨_, exec_dataCommit hsel ha, ?_, fun b hb => ?_, rfl⟩
  · exact State.tableRead_tableWrite_same s a v
  · exact State.tableRead_tableWrite_other s a v hb

/-! ## Reads -/

section
variable {q : Sequencing} {v : Byte} {a : TableAddr}

/-- A byte clocks a pending read where the commit test fails: no write is pending, or the byte is zero or
the address (R96, R98). -/
theorem Sequencing.clocksRead_of (ha : q.latchedAddress = some a) (hr : q.pendingRead = true)
    (hv : isHeader v = false) (h : q.pendingWrite = false ∨ v = 0 ∨ v.toNat = a.val) :
    q.clocksRead v = true := by
  refine Sequencing.clocksRead_iff.mpr ⟨hv, ⟨a, ha⟩, hr, (Sequencing.commits_eq_false ha).mpr fun hw => ?_⟩
  obtain hf | rfl | heq := h
  · simp [hf] at hw
  · by_cases h0 : a = 0
    · exact .inl (h0 ▸ rfl)
    · exact .inr ⟨rfl, h0⟩
  · exact .inl heq

/-- The same at `0x73`, with the address as a byte. -/
theorem Sequencing.clocksRead_of_status (ha : q.latchedAddress = some 0x73)
    (hr : q.pendingRead = true) (hv : isHeader v = false)
    (h : q.pendingWrite = false ∨ v = 0 ∨ v = 0x73) : q.clocksRead v = true := by
  refine Sequencing.clocksRead_of ha hr hv (h.imp_right (Or.imp_right ?_))
  rintro rfl
  rfl

end

/-- Settles O28: the first phase is selected, and its effect is `exec_readDecoy`. -/
theorem statusReadAnswersTheDecoyFirst : Obligations.StatusReadAnswersTheDecoyFirst := by
  intro s v ha hr hp hW hR hcase
  have hclock := Sequencing.clocksRead_of_status ha hr (isHeader_eq_false.mpr ⟨hW, hR⟩) hcase
  exact exec_readDecoy (Sequencing.selects_readDecoy.mpr ⟨hclock, ha, hp⟩)

/-- Settles O29: the second phase is selected, and it reads `0x73` and ends. -/
theorem statusReadAnswersTheValueSecond : Obligations.StatusReadAnswersTheValueSecond := by
  intro s v ha hr hp hW hR hcase
  have hclock := Sequencing.clocksRead_of_status ha hr (isHeader_eq_false.mpr ⟨hW, hR⟩) hcase
  exact exec_readValue (Sequencing.selects_readValue.mpr ⟨hclock, ha, hp⟩)

/-- Settles O30: the one phase is selected, and it reads the latched address and ends. -/
theorem singleReadAnswersTheLatchedRegister : Obligations.SingleReadAnswersTheLatchedRegister := by
  intro s v a ha h73 hr hW hR hcase
  have hclock := Sequencing.clocksRead_of ha hr (isHeader_eq_false.mpr ⟨hW, hR⟩) hcase
  have hne : s.spd.seq.latchedAddress ≠ some Config.statusAddr := by simpa [ha] using h73
  exact exec_readSingle (Sequencing.selects_readSingle.mpr ⟨hclock, hne⟩) ha

/-! ## The pulse and the reset -/

/-- Settles O31: the pulse is its own row, which only answers. -/
theorem pulseInAWritePhaseChangesNothing : Obligations.PulseInAWritePhaseChangesNothing := by
  intro s a ha h0 hw hr
  have hsel := Sequencing.selects_pulseNop.mpr ⟨a, ha, h0, hw, hr⟩
  exact ⟨congrArg Except.ok (decodeByte_pulseNop hsel), exec_pulseNop hsel⟩

theorem exec_spdReset (s : State) : exec .spdReset s = .next s.toIdle := rfl

/-- Settles O33: `SPD_RESET` is `toIdle()`, which keeps the table and is idempotent. -/
theorem decoderResetKeepsTheTable : Obligations.DecoderResetKeepsTheTable :=
  fun s => ⟨s.toIdle, exec_spdReset s, rfl, State.toIdle_tableRead s, exec_spdReset s.toIdle⟩

/-! ## `onTransferByte` -/

/-- The outcome of a transfer that leaves the decoder and the response `r`, if any. -/
def State.afterTransfer (s : State) : Option (Decoder × Byte) → Outcome
  | some (d, b) => .next { s with spd := d, outputs := .response b :: s.outputs }
  | none => .fault .addrOutOfRange

section
variable {reg0 : Byte} {d : Decoder} {v : Byte} {a : TableAddr}

theorem toNat_ne_of_isHeader (hv : isHeader v = false) : v.toNat ≠ 0x2F ∧ v.toNat ≠ 0xAF := by
  obtain ⟨hW, hR⟩ := isHeader_eq_false.mp hv
  exact ⟨fun h => hW (BitVec.eq_of_toNat_eq h), fun h => hR (BitVec.eq_of_toNat_eq h)⟩

theorem onTransferByte_oor (hl : d.seq.latchedAddress = none) (hge : 217 ≤ v.toNat) :
    onTransferByte reg0 d v = none := by
  obtain ⟨hW, hR⟩ := toNat_ne_of_isHeader (isHeader_of_ge hge)
  have hnot : ¬ v.toNat ≤ 216 := by omega
  simp only [onTransferByte, if_neg hW, if_neg hR, hl, dif_neg hnot]

/-- An address byte of the table, with the flags that R94 leaves. -/
theorem onTransferByte_address (hv : isHeader v = false) (hl : d.seq.latchedAddress = none)
    (hlt : v.toNat < 217) {pw pr : Bool}
    (hpw : pw = (d.seq.pendingWrite || (!d.seq.pendingRead && decide (v.toNat < 0x2F))))
    (hpr : pr = (d.seq.pendingRead || (!d.seq.pendingWrite && !decide (v.toNat < 0x2F)))) :
    onTransferByte reg0 d v =
      some ({ d with seq :=
        Sequencing.latch { d.seq with pendingWrite := pw, pendingRead := pr } ⟨v.toNat, hlt⟩ }, 0x00) := by
  obtain ⟨hW, hR⟩ := toNat_ne_of_isHeader hv
  have hle : v.toNat ≤ 216 := by omega
  have h73 : v = 0x73 ↔ v.toNat = 0x73 := (BitVec.toNat_inj (x := v) (y := 0x73#8)).symm
  simp only [onTransferByte, if_neg hW, if_neg hR, hl, dif_pos hle, Sequencing.latch_byte, h73]
  subst hpw hpr
  cases d.seq.pendingWrite <;> cases d.seq.pendingRead <;> by_cases hlow : v.toNat < 0x2F <;> simp [hlow]

/-- The commit branch of R105 is taken exactly where the commit test of R98 holds. -/
theorem onTransferByte_latched (hv : isHeader v = false) (ha : d.seq.latchedAddress = some a) :
    onTransferByte reg0 d v =
      if d.seq.commits v = true then
        some (⟨Sequencing.idle, 0, Memory.write reg0 d.regs a.val v⟩, 0x00)
      else if d.seq.pendingRead = true then
        if a = 0x73 ∧ d.seq.readPhase ≠ .awaitingValue then
          some (⟨{ d.seq with readPhase := .awaitingValue }, Memory.read reg0 d.regs 0x73, d.regs⟩, 0x41)
        else some (d.toIdle, Memory.read reg0 d.regs a.val)
      else some (d, 0x00) := by
  obtain ⟨hW, hR⟩ := toNat_ne_of_isHeader hv
  have hzero : v = 0 ↔ v.toNat = 0 := (BitVec.toNat_inj (x := v) (y := 0#8)).symm
  have haddr0 : a = 0 ↔ a.val = 0 := Fin.ext_iff
  have haddr73 : a = 0x73 ↔ a.val = 0x73 := Fin.ext_iff
  simp only [Sequencing.commits_of_latched ha, hzero, haddr0, haddr73, ne_eq]
  simp only [onTransferByte, if_neg hW, if_neg hR, ha]
  rfl

end

/-- R105: the row decoded for a byte does what `onTransferByte` says in one piece. -/
theorem exec_decodeByte (s : State) (v : Byte) :
    exec (decodeByte s.spd.seq v) s = s.afterTransfer (onTransferByte s.reg0Default s.spd v) := by
  obtain ⟨hwf, hsel, henc⟩ := serialRow_decodeByte s.spd.seq v
  generalize decodeByte s.spd.seq v = i at hwf hsel henc
  cases i with
  | hdrWrite | hdrRead =>
    cases henc
    rfl
  | addrOor w =>
    cases henc
    obtain ⟨hl, hge⟩ := Sequencing.selects_addrOor.mp hsel
    rw [exec_addrOor hsel, onTransferByte_oor hl hge]
    rfl
  | addrImplicitWrite w =>
    cases henc
    obtain ⟨hl, hw, hr, hlow⟩ := Sequencing.selects_addrImplicitWrite.mp hsel
    have hlt : v.toNat < 217 := by omega
    rw [exec_addrImplicitWrite hsel hlt, onTransferByte_address (isHeader_of_lt hlow) hl hlt
      (pw := true) (pr := s.spd.seq.pendingRead) (by simp [hw, hr, hlow]) (by simp [hr, hlow])]
    rfl
  | addrImplicitRead w =>
    cases henc
    obtain ⟨hl, hw, hr, hv, hgt, hlt⟩ := Sequencing.selects_addrImplicitRead.mp hsel
    have hlow : ¬ v.toNat < 0x2F := by omega
    rw [exec_addrImplicitRead hsel hlt, onTransferByte_address hv hl hlt
      (pw := s.spd.seq.pendingWrite) (pr := true) (by simp [hw, hlow]) (by simp [hw, hr, hlow])]
    rfl
  | addrLatch w =>
    cases henc
    obtain ⟨hl, hflag, hv, hlt⟩ := Sequencing.selects_addrLatch.mp hsel
    rw [exec_addrLatch hsel hlt, onTransferByte_address hv hl hlt
      (pw := s.spd.seq.pendingWrite) (pr := s.spd.seq.pendingRead)
      (by rcases hflag with h | h <;> simp [h]) (by rcases hflag with h | h <;> simp [h])]
    rfl
  | dataCommit w =>
    cases henc
    obtain ⟨hv, hc⟩ := Sequencing.selects_dataCommit.mp hsel
    obtain ⟨a, ha⟩ := Sequencing.commits_latched hc
    rw [exec_dataCommit hsel ha, onTransferByte_latched hv ha, if_pos hc]
    rfl
  | readDecoy w =>
    cases henc
    obtain ⟨hclock, ha, hp⟩ := Sequencing.selects_readDecoy.mp hsel
    obtain ⟨hv, -, hr, hc⟩ := Sequencing.clocksRead_iff.mp hclock
    rw [exec_readDecoy hsel, onTransferByte_latched hv ha, if_neg (Bool.eq_false_iff.mp hc), if_pos hr,
      if_pos ⟨rfl, hp⟩]
    rfl
  | readValue w =>
    cases henc
    obtain ⟨hclock, ha, hp⟩ := Sequencing.selects_readValue.mp hsel
    obtain ⟨hv, -, hr, hc⟩ := Sequencing.clocksRead_iff.mp hclock
    rw [exec_readValue hsel, onTransferByte_latched hv ha, if_neg (Bool.eq_false_iff.mp hc), if_pos hr,
      if_neg fun h => h.2 hp]
    rfl
  | readSingle w =>
    cases henc
    obtain ⟨hclock, hne⟩ := Sequencing.selects_readSingle.mp hsel
    obtain ⟨hv, ⟨a, ha⟩, hr, hc⟩ := Sequencing.clocksRead_iff.mp hclock
    rw [exec_readSingle hsel ha, onTransferByte_latched hv ha, if_neg (Bool.eq_false_iff.mp hc), if_pos hr,
      if_neg fun h => hne (ha.trans (congrArg some h.1))]
    rfl
  | pulseNop =>
    cases henc
    obtain ⟨a, ha, h0, hw, hr⟩ := Sequencing.selects_pulseNop.mp hsel
    have hc : s.spd.seq.commits 0 = false := (Sequencing.commits_eq_false ha).mpr fun _ => .inr ⟨rfl, h0⟩
    rw [exec_pulseNop hsel, onTransferByte_latched (by decide) ha, if_neg (Bool.eq_false_iff.mp hc),
      if_neg (Bool.eq_false_iff.mp hr)]
    rfl
  | dataNop w =>
    cases henc
    obtain ⟨a, ha⟩ := Sequencing.latched_of_selects_dataNop hsel
    obtain ⟨hv, hr, heq⟩ := (Sequencing.selects_dataNop ha).mp hsel
    have hc : s.spd.seq.commits v = false :=
      (Sequencing.commits_eq_false ha).mpr fun hw => .inl (heq hw)
    rw [exec_dataNop hsel, onTransferByte_latched hv ha, if_neg (Bool.eq_false_iff.mp hc),
      if_neg (Bool.eq_false_iff.mp hr)]
    rfl
  | _ => cases henc

/-! ## The step -/

section
variable {s : State} {t : Time} {inp : Input} {rest : List Stimulus}

theorem step_nil (h : s.inputs = []) : step s = .next s := by
  simp only [step, h]

/-- A step on an input that is an operation performs it, at the input's time. -/
theorem step_of_decode {i : Instr} (h : s.inputs = { time := t, input := inp } :: rest) (ht : s.now ≤ t)
    (hd : decode s.spd.seq inp = .ok i) : step s = exec i (s.take t rest) := by
  simp only [step, h, if_pos ht, hd]

theorem step_of_decode_error {r : DecodeError} (h : s.inputs = { time := t, input := inp } :: rest)
    (ht : s.now ≤ t) (hd : decode s.spd.seq inp = .error r) : step s = .refused .accessWidth := by
  cases r
  simp only [step, h, if_pos ht, hd, refusalOf]

theorem step_of_past (h : s.inputs = { time := t, input := inp } :: rest) (ht : t < s.now) :
    step s = .refused .timeReversed := by
  simp only [step, h, if_neg (BitVec.not_le.mpr ht)]

theorem step_transfer {v : Byte} (h : s.inputs = { time := t, input := .transfer v } :: rest)
    (ht : s.now ≤ t) :
    step s = (s.take t rest).afterTransfer (onTransferByte s.reg0Default s.spd v) :=
  (step_of_decode h ht rfl).trans (exec_decodeByte (s.take t rest) v)

end

/-- Settles O34: the step performs the decoded row, which is `onTransferByte`. -/
theorem transferStepIsOnTransferByte : Obligations.TransferStepIsOnTransferByte := by
  intro s t v rest h ht
  rw [step_transfer h ht]
  cases onTransferByte s.reg0Default s.spd v <;> rfl

/-- Settles O2: the four lemmas on the step. -/
theorem stepPerformsTheDecodedOperation : Obligations.StepPerformsTheDecodedOperation :=
  fun _ => ⟨step_nil, fun _ _ _ h =>
    ⟨fun ht => ⟨fun _ => step_of_decode h ht, fun _ => step_of_decode_error h ht⟩, step_of_past h⟩⟩

end Sys2Proof.Machine

/-!
PROOF of O9, O10, O14, O22 and O37 to O42 (`40_watchdog.md` sections 1, 2, 4 and 6): the period as a number,
the deadline as a sum, and what the two keys and the expiry make of it.
-/

namespace Sys2Proof.Machine

/-! ## The period -/

theorem nsPerCount_eq (raw : BitVec 3) : nsPerCount raw = 100000 * 2 ^ raw.toNat := by
  have hexact : 1000000 * (4 * 2 ^ raw.toNat) = 40 * (100000 * 2 ^ raw.toNat) := by ring
  rw [nsPerCount, prescaler_eq, hexact, Nat.mul_div_cancel_left _ (by decide)]

/-- R70: the floor discards nothing. -/
theorem periodNs_eq (raw : BitVec 3) (rl : BitVec 12) :
    periodNs raw rl = 100000 * 2 ^ raw.toNat * rl.toNat := by
  rw [periodNs, nsPerCount_eq]

theorem periodNs_mono {raw raw' : BitVec 3} {rl rl' : BitVec 12} (hraw : raw.toNat ≤ raw'.toNat)
    (hrl : rl.toNat ≤ rl'.toNat) : periodNs raw rl ≤ periodNs raw' rl' := by
  simp only [periodNs_eq]
  gcongr
  decide

/-- With a selector of at most 7, a bound on the reload value bounds the period. -/
theorem periodNs_le_of_reload {raw : BitVec 3} {rl : BitVec 12} {n : Nat} (h : rl.toNat ≤ n) :
    periodNs raw rl ≤ 12800000 * n := by
  have hraw : 2 ^ raw.toNat ≤ 2 ^ 7 := Nat.pow_le_pow_right (by decide) (Nat.lt_succ_iff.mp raw.isLt)
  calc periodNs raw rl = 100000 * 2 ^ raw.toNat * rl.toNat := periodNs_eq raw rl
    _ ≤ 100000 * 2 ^ 7 * n := by gcongr

theorem periodNs_le (raw : BitVec 3) (rl : BitVec 12) : periodNs raw rl ≤ 52416000000 :=
  periodNs_le_of_reload (Nat.lt_succ_iff.mp rl.isLt)

theorem periodNs_zero (raw : BitVec 3) : periodNs raw 0 = 0 := by simp [periodNs_eq]

theorem periodNs_pos {raw : BitVec 3} {rl : BitVec 12} (h : rl ≠ 0) : 0 < periodNs raw rl := by
  have hrl : 0 < rl.toNat := Nat.pos_of_ne_zero fun h0 => h (BitVec.eq_of_toNat_eq h0)
  rw [periodNs_eq]
  positivity

/-- Settles O37: all of it is read off the exact product. -/
theorem periodIsExactMonotoneAndBounded : Obligations.PeriodIsExactMonotoneAndBounded :=
  ⟨periodNs_eq, periodNs_zero, fun _ _ _ _ => periodNs_mono,
    fun raw rl => ⟨periodNs_le raw rl, (periodNs_le raw rl).trans_lt (by decide),
      periodNs_le_of_reload⟩,
    by decide, by decide, by decide⟩

/-! ## The down-counter -/

/-- After `n` cycles the divider holds the remainder of `n` by its period, and the counter has been
decremented by the quotient. -/
theorem DownCounter.afterCycles_eq {p : Nat} (hp : 0 < p) (rl n : Nat) :
    DownCounter.afterCycles p rl n = { divider := n % p, count := rl - n / p } := by
  induction n with
  | zero => simp [DownCounter.afterCycles, DownCounter.load]
  | succ n ih =>
    have hn : n % p + p * (n / p) = n := Nat.mod_add_div n p
    simp only [DownCounter.afterCycles, ih, DownCounter.tick]
    split_ifs with hwrap
    · obtain ⟨hq, hr⟩ : (n + 1) / p = n / p + 1 ∧ (n + 1) % p = 0 :=
        (Nat.div_mod_unique hp).mpr ⟨by rw [Nat.mul_add]; omega, hp⟩
      rw [hq, hr, Nat.sub_sub]
    · have hlt : n % p < p := Nat.mod_lt n hp
      obtain ⟨hq, hr⟩ : (n + 1) / p = n / p ∧ (n + 1) % p = n % p + 1 :=
        (Nat.div_mod_unique hp).mpr ⟨by omega, by omega⟩
      rw [hq, hr]

/-- Settles O38: the counter is zero from the `rl`-th decrement on, and a count takes `nsPerCount`. -/
theorem downCounterReachesZeroWithThePeriod : Obligations.DownCounterReachesZeroWithThePeriod := by
  intro raw rl n
  have hp : 0 < prescaler raw := by rw [prescaler_eq]; positivity
  have hperiod : periodNs raw rl = rl.toNat * prescaler raw * lsiCycleNs := by
    rw [periodNs_eq, prescaler_eq, show lsiCycleNs = 25000 from rfl]
    ring
  calc (DownCounter.afterCycles (prescaler raw) rl.toNat n).count = 0
      ↔ rl.toNat ≤ n / prescaler raw := by
        rw [DownCounter.afterCycles_eq hp, Nat.sub_eq_zero_iff_le]
    _ ↔ rl.toNat * prescaler raw ≤ n := Nat.le_div_iff_mul_le hp
    _ ↔ periodNs raw rl ≤ n * lsiCycleNs := by
        rw [hperiod, Nat.mul_le_mul_right_iff (by decide)]

/-! ## The deadline -/

section
variable {w : Watchdog} {now d : Time} {s : State}

theorem Watchdog.deadline_toNat (h : w.deadline now = some d) :
    d.toNat = now.toNat + periodNs w.prescalerRaw w.reloadRegister := by
  rw [Watchdog.deadline_eq] at h
  split_ifs at h with hlt
  cases h
  exact BitVec.toNat_ofNat _ _ ▸ Nat.mod_eq_of_lt hlt

theorem Watchdog.deadline_eq_none :
    w.deadline now = none ↔ 2 ^ 64 ≤ now.toNat + periodNs w.prescalerRaw w.reloadRegister := by
  simp [Watchdog.deadline_eq]

/-- No period reaches past the bound of R70, so that far from the end of time there is a deadline. -/
theorem Watchdog.deadline_of_bound (w : Watchdog) (h : now.toNat + 52416000000 < 2 ^ 64) :
    ∃ d, w.deadline now = some d := by
  refine Option.ne_none_iff_exists'.mp fun hnone => ?_
  have hle := periodNs_le w.prescalerRaw w.reloadRegister
  have hge := Watchdog.deadline_eq_none.mp hnone
  omega

theorem State.schedule_of_deadline (w : Watchdog) (h : s.wdg.deadline s.now = some d) :
    s.schedule w = .next { s with wdg := { w with pendingExpiry := some d } } := by
  simp only [State.schedule, h]

theorem State.schedule_of_overflow (w : Watchdog) (h : s.wdg.deadline s.now = none) :
    s.schedule w = .refused .deadlineOverflow := by
  simp only [State.schedule, h]

/-! ## The two keys that schedule -/

theorem exec_krEnable (hi : BitVec 16) (s : State) :
    exec (.krEnable hi) s = s.schedule { s.wdg with enabled := true, rebootOnExpiry := true } := rfl

theorem exec_krRefresh_armed (hi : BitVec 16) (h : s.wdg.enabled = true) :
    exec (.krRefresh hi) s = s.schedule s.wdg := if_pos h

theorem exec_krRefresh_disarmed (hi : BitVec 16) (h : s.wdg.enabled = false) :
    exec (.krRefresh hi) s = .next s := if_neg (Bool.eq_false_iff.mp h)

end

/-- Settles O9: the key is the schedule of the armed watchdog. -/
theorem enableKeyArmsAndSchedules : Obligations.EnableKeyArmsAndSchedules := by
  rintro hi s d rfl
  refine ⟨fun hlt => ?_, fun hge => ?_⟩
  · rw [exec_krEnable, State.schedule_of_deadline _ (if_pos hlt)]
  · rw [exec_krEnable, State.schedule_of_overflow _ (Watchdog.deadline_eq_none.mpr hge)]

/-- Settles O10: while armed the key is the schedule of the watchdog as it is. -/
theorem refreshKeyRetimesWhileArmed : Obligations.RefreshKeyRetimesWhileArmed := by
  rintro hi s d rfl
  refine ⟨fun he hlt => ?_, fun he hge => ?_, exec_krRefresh_disarmed hi⟩
  · rw [exec_krRefresh_armed hi he, State.schedule_of_deadline _ (if_pos hlt)]
  · rw [exec_krRefresh_armed hi he, State.schedule_of_overflow _ (Watchdog.deadline_eq_none.mpr hge)]

/-! ## The expiry -/

section
variable {s : State} {d : Time}

theorem State.expiryReady_of_pending (h : s.wdg.pendingExpiry = some d) :
    s.expiryReady = decide (d ≤ s.now) := by
  simp only [State.expiryReady, expiryEnabled, h]

theorem State.expiryReady_of_none (h : s.wdg.pendingExpiry = none) : s.expiryReady = false := by
  simp only [State.expiryReady, expiryEnabled, h]

theorem exec_wdgExpire_ready (h : s.expiryReady = true) : exec .wdgExpire s = .next s.takeExpiry :=
  if_pos h

theorem exec_wdgExpire_not_ready (h : s.expiryReady = false) :
    exec .wdgExpire s = .refused .expiryNotEnabled :=
  if_neg (Bool.eq_false_iff.mp h)

end

/-- Settles O22: whether the expiry is ready, and then whether it reboots. -/
theorem expiryRebootsOrIsInert : Obligations.ExpiryRebootsOrIsInert := by
  intro s
  refine ⟨fun d hd hle hr => ?_, fun d hd hle hr => ?_, fun d hd hlt => ?_, fun hn => ?_⟩
  · have hready := (State.expiryReady_of_pending hd).trans (decide_eq_true hle)
    rw [exec_wdgExpire_ready hready, State.takeExpiry_reboot hr]
    rfl
  · have hready := (State.expiryReady_of_pending hd).trans (decide_eq_true hle)
    rw [exec_wdgExpire_ready hready, State.takeExpiry_inert hr]
  · have hready := (State.expiryReady_of_pending hd).trans (decide_eq_false (BitVec.not_le.mpr hlt))
    exact exec_wdgExpire_not_ready hready
  · exact exec_wdgExpire_not_ready (State.expiryReady_of_none hn)

/-! ## Deadlines and configuration -/

/-- A reload of 0 schedules at the present time (R158). -/
theorem Watchdog.deadline_of_reload_zero {w : Watchdog} (now : Time) (h : w.reloadRegister = 0) :
    w.deadline now = some now := by
  rw [Watchdog.deadline_eq, h, periodNs_zero, Nat.add_zero, if_pos now.isLt, BitVec.ofNat_toNat,
    BitVec.setWidth_eq]

/-- Settles O39: both keys schedule at the present time, where the deadline is reached. -/
theorem reloadOfZeroExpiresAtOnce : Obligations.ReloadOfZeroExpiresAtOnce := by
  intro hi s h0
  have hnow := Watchdog.deadline_of_reload_zero s.now h0
  have hle : decide (s.now ≤ s.now) = true := decide_eq_true (BitVec.le_refl _)
  refine ⟨⟨_, State.schedule_of_deadline _ hnow, rfl, rfl, hle, rfl⟩, fun he => ?_⟩
  rw [exec_krRefresh_armed hi he, State.schedule_of_deadline _ hnow]
  exact ⟨_, rfl, rfl, rfl, hle, rfl⟩

/-- R77: an unlocked write stores its field, zero-extended. -/
theorem exec_rlrWrite_unlocked (w : Word) {s : State} (h : s.wdg.unlocked = true) :
    exec (.rlrWrite w) s =
      .next { s with wdg := { s.wdg with reloadRegister := (rlField w).zeroExtend 12 } } :=
  if_pos h

theorem exec_rlrWrite_locked (w : Word) {s : State} (h : s.wdg.unlocked = false) :
    exec (.rlrWrite w) s = .next s :=
  if_neg (Bool.eq_false_iff.mp h)

theorem storedReload_toNat (w : Word) : ((rlField w).zeroExtend 12).toNat = w.toNat % 2 ^ 11 :=
  (BitVec.toNat_setWidth_of_le (by decide)).trans (rlField_toNat w)

/-- The period of the stored fields of two words written. -/
theorem periodNs_of_fields (p r : Word) :
    periodNs (prField p) ((rlField r).zeroExtend 12) =
      100000 * 2 ^ (p.toNat % 8) * (r.toNat % 2048) := by
  rw [periodNs_eq, prField_toNat, storedReload_toNat]
  rfl

/-- Settles O14: the two branches of the lock; eleven bits are at most `0x7FF`. -/
theorem reloadWriteIsGatedByTheLock : Obligations.ReloadWriteIsGatedByTheLock := by
  intro w s
  refine ⟨fun hu => ⟨_, storedReload_toNat w, ?_, exec_rlrWrite_unlocked w hu⟩, exec_rlrWrite_locked w⟩
  rw [storedReload_toNat]
  omega

/-- Settles O40: the two writes store their fields and no more; the refresh adds their period. -/
theorem newConfigurationTakesEffectAtTheRefresh :
    Obligations.NewConfigurationTakesEffectAtTheRefresh := by
  intro p r hi s hu he hbound
  obtain ⟨d, hd⟩ := Watchdog.deadline_of_bound (now := s.now)
    { s.wdg with prescalerRaw := prField p, reloadRegister := (rlField r).zeroExtend 12 } hbound
  refine ⟨_, _, _, exec_prWrite_unlocked p hu, exec_rlrWrite_unlocked r hu,
    (exec_krRefresh_armed hi (by exact he)).trans (State.schedule_of_deadline _ (by exact hd)), rfl, rfl,
    d, rfl, ?_⟩
  rw [Watchdog.deadline_toNat hd, periodNs_of_fields]

/-- Settles O41: a period that is not 0 puts the new deadline after the present time; the expiry's own
reset disarms. -/
theorem refreshAndExpiryCompeteForAReachedDeadline :
    Obligations.RefreshAndExpiryCompeteForAReachedDeadline := by
  intro hi s hready he hr h0 hbound
  obtain ⟨d, hd⟩ := Watchdog.deadline_of_bound s.wdg hbound
  have hlater : ¬ d ≤ s.now := by
    have hpos := periodNs_pos (raw := s.wdg.prescalerRaw) h0
    have hsum := Watchdog.deadline_toNat hd
    rw [BitVec.le_def]
    omega
  refine ⟨⟨_, (exec_krRefresh_armed hi he).trans (State.schedule_of_deadline _ hd),
    decide_eq_false hlater, he, rfl⟩, ⟨_, exec_wdgExpire_ready hready, ?_, ?_, ?_⟩⟩
  · rw [State.takeExpiry_reboot hr]
  · rw [State.takeExpiry_reboot hr]
    rfl
  · exact exec_krRefresh_disarmed hi (by rw [State.takeExpiry_reboot hr]; rfl)

/-! ## Configure and start -/

/-- A run that begins with a write performs the write's row. -/
theorem run_write {s u : State} {t : Time} {off k : Nat} {w : Word} {rest : List Stimulus}
    (h : s.inputs = { time := t, input := writeAccess off w } :: rest) (ht : s.now ≤ t)
    (hu : exec (decodeWrite off w) (s.take t rest) = .next u) : run (k + 1) s = run k u := by
  simp only [run, step_of_decode h ht (decode_writeAccess _ off w), hu]

/-- Settles O42: each of the four writes is one step; the last has a deadline, since the bound leaves room
for any period. -/
theorem configureAndStartArmsWithTheChosenPeriod :
    Obligations.ConfigureAndStartArmsWithTheChosenPeriod := by
  intro s t p r rest h ht hbound
  obtain ⟨d, hd⟩ := Watchdog.deadline_of_bound (now := t)
    { s.wdg with unlocked := true, prescalerRaw := prField p,
                 reloadRegister := (rlField r).zeroExtend 12 } hbound
  have hrun : run 4 s = .next { s with
      now := t
      inputs := rest
      wdg := { s.wdg with
        enabled := true, rebootOnExpiry := true, unlocked := true, prescalerRaw := prField p
        reloadRegister := (rlField r).zeroExtend 12, pendingExpiry := some d } } := by
    refine (run_write h ht (exec_krUnlock _ _)).trans ?_
    refine (run_write (by exact rfl) (BitVec.le_refl t) (by exact exec_prWrite_unlocked p rfl)).trans ?_
    refine (run_write (by exact rfl) (BitVec.le_refl t) (by exact exec_rlrWrite_unlocked r rfl)).trans ?_
    exact run_write rfl (BitVec.le_refl t) (State.schedule_of_deadline _ hd)
  refine ⟨_, hrun, rfl, rfl, rfl, rfl, rfl, rfl, prField_toNat p, storedReload_toNat r, d, rfl, ?_⟩
  rw [Watchdog.deadline_toNat hd, periodNs_of_fields]

end Sys2Proof.Machine

/-!
PROOF of O3, O15, O18 to O20, O35 and O36 (`20_memory.md` section 2): bus accesses, and that a step on one
is `MemRead` or `MemWrite` of R33 and R34. The key of a write to KR is `writeKey` of R71.
-/

namespace Sys2Proof.Machine

/-- Settles O3: each word is unpacked and decoded. -/
theorem wordsOfTheSpecDecodeToTheirOperations : Obligations.WordsOfTheSpecDecodeToTheirOperations :=
  ⟨rfl, rfl, rfl, rfl, rfl, rfl, rfl, rfl, rfl, rfl⟩

/-! ## Reads -/

theorem prReadValue_raw_toNat (raw : BitVec 3) : (prReadValue .raw raw).toNat = raw.toNat :=
  BitVec.toNat_setWidth_of_le (by decide)

/-- The divider is at most 512 and fits the word. -/
theorem prReadValue_derived_toNat (raw : BitVec 3) :
    (prReadValue .derived raw).toNat = 4 * 2 ^ raw.toNat := by
  have hle : 2 ^ raw.toNat ≤ 2 ^ 7 := Nat.pow_le_pow_right (by decide) (Nat.lt_succ_iff.mp raw.isLt)
  rw [prReadValue, prescaler_eq, BitVec.toNat_ofNat, Nat.mod_eq_of_lt (by omega)]

theorem exec_prRead (s : State) :
    exec .prRead s = .next (s.answer (prReadValue s.prReadForm s.wdg.prescalerRaw)) := rfl

/-- Settles O15: the value under each form, as a number. -/
theorem prescalerReadFollowsTheForm : Obligations.PrescalerReadFollowsTheForm := by
  intro s
  refine ⟨_, exec_prRead s, fun h => ?_, fun h => ?_⟩
  · rw [h, prReadValue_raw_toNat]
  · rw [h, prReadValue_derived_toNat]

/-- Settles O18: the row of each direction. -/
theorem statusRegisterIsAStub : Obligations.StatusRegisterIsAStub := fun _ _ => ⟨rfl, rfl⟩

theorem exec_unmappedRead (off : Nat) (s : State) :
    exec (.unmappedRead off) s = .next ((s.emit (.diag .read off)).answer 0) := rfl

theorem exec_unmappedWrite (off : Nat) (w : Word) (s : State) :
    exec (.unmappedWrite off w) s = .next (s.emit (.diag .write off)) := rfl

/-- Settles O19: the row of each direction. -/
theorem unmappedAccessesOnlyRecordADiagnostic : Obligations.UnmappedAccessesOnlyRecordADiagnostic :=
  fun off w s => ⟨exec_unmappedRead off s, exec_unmappedWrite off w s⟩

/-- Settles O20: at an offset that is none of the four, each direction is its unmapped row. -/
theorem undefinedOffsetsNeverFault : Obligations.UndefinedOffsetsNeverFault := by
  rintro s t ⟨write, width, off, w⟩ rest h ht hwidth hkr hpr hrlr hsr
  obtain rfl : width = .w32 := hwidth
  have hun : isUnmapped off = true := isUnmapped_iff.mpr ⟨hkr, hpr, hrlr, hsr⟩
  cases write with
  | true =>
    have hdec : decode s.spd.seq (writeAccess off w) = .ok (.unmappedWrite off w) :=
      congrArg Except.ok (decodeWrite_unmapped w hun)
    exact ⟨_, step_of_decode h ht hdec, rfl, rfl, List.mem_cons_self, Bool.noConfusion⟩
  | false =>
    have hdec : decode s.spd.seq (.bus ⟨false, .w32, off, w⟩) = .ok (.unmappedRead off) :=
      congrArg Except.ok (decodeRead_unmapped hun)
    exact ⟨_, step_of_decode h ht hdec, rfl, rfl, List.mem_cons_of_mem _ List.mem_cons_self,
      fun _ => rfl⟩

/-! ## `MemRead` -/

/-- The outputs of a read are its data and what `l` records before it. -/
def State.afterRead (s : State) (r : Word × List Output) : State :=
  { s with outputs := .readData r.1 :: (r.2 ++ s.outputs) }

/-- An offset is unmapped or one of the four registers (R35). -/
theorem offset_cases (off : Nat) :
    isUnmapped off = true ∨ off = 0x00 ∨ off = 0x04 ∨ off = 0x08 ∨ off = 0x0C := by
  rw [isUnmapped_iff]
  tauto

theorem Watchdog.memRead_unmapped (w : Watchdog) (form : Config.PrReadForm) {off : Nat}
    (h : isUnmapped off = true) : w.memRead form off = (0, [.diag .read off]) := by
  obtain ⟨hkr, hpr, hrlr, hsr⟩ := isUnmapped_iff.mp h
  unfold Watchdog.memRead
  split
  · exact absurd rfl hkr
  · exact absurd rfl hpr
  · exact absurd rfl hrlr
  · exact absurd rfl hsr
  · rfl

theorem Watchdog.memRead_pr (w : Watchdog) (form : Config.PrReadForm) :
    w.memRead form 0x04 = (prReadValue form w.prescalerRaw, []) := by
  cases form with
  | raw => simp only [Watchdog.memRead, prReadValue, BitVec.ofNat_toNat]
  | derived => simp only [Watchdog.memRead, prReadValue, prescaler_eq]

theorem Watchdog.memRead_rlr (w : Watchdog) (form : Config.PrReadForm) :
    w.memRead form 0x08 = (rlrReadValue w.reloadRegister, []) := by
  simp only [Watchdog.memRead, rlrReadValue, BitVec.ofNat_toNat]

/-- R33: the row decoded for a read does what `MemRead` says in one piece. -/
theorem exec_decodeRead (off : Nat) (s : State) :
    exec (decodeRead off) s = .next (s.afterRead (s.wdg.memRead s.prReadForm off)) := by
  obtain hun | rfl | rfl | rfl | rfl := offset_cases off
  · rw [decodeRead_unmapped hun, Watchdog.memRead_unmapped _ _ hun]
    rfl
  · rfl
  · rw [Watchdog.memRead_pr]
    rfl
  · rw [Watchdog.memRead_rlr]
    rfl
  · rfl

/-- Settles O36: the step performs the decoded row, which is `MemRead`. -/
theorem readStepIsMemRead : Obligations.ReadStepIsMemRead := fun _ _ off _ h ht =>
  (step_of_decode h ht (decode_read _ off 0)).trans (exec_decodeRead off _)

/-! ## `MemWrite` -/

/-- The outcome of a write that leaves the watchdog and the records `r`, if its deadline does not
overflow. -/
def State.afterWrite (s : State) : Option (Watchdog × List Output) → Outcome
  | some (w, l) => .next { s with wdg := w, outputs := l ++ s.outputs }
  | none => .refused .deadlineOverflow

theorem Watchdog.periodNow_eq (w : Watchdog) :
    w.periodNow = periodNs w.prescalerRaw w.reloadRegister := by
  rw [Watchdog.periodNow, periodNs, nsPerCount, prescaler_eq]

/-- The deadline with the comparison that D4 words. -/
theorem Watchdog.deadline_eq_ite_le (w : Watchdog) (now : Time) :
    w.deadline now =
      if now.toNat + w.periodNow ≤ 2 ^ 64 - 1 then some (BitVec.ofNat 64 (now.toNat + w.periodNow))
      else none := by
  rw [Watchdog.deadline_eq, Watchdog.periodNow_eq]
  exact if_congr (by omega) rfl rfl

/-- `writeKey` with the tests of the decoder, and the deadline as the machine computes it. -/
theorem Watchdog.writeKey_eq (w : Watchdog) (now : Time) (key : BitVec 16) :
    w.writeKey now key =
      if key = Config.keyEnable then
        (w.deadline now).map fun d =>
          { w with enabled := true, rebootOnExpiry := true, pendingExpiry := some d }
      else if key = Config.keyRefresh then
        if w.enabled = true then (w.deadline now).map fun d => { w with pendingExpiry := some d }
        else some w
      else if key = Config.keyUnlock then some { w with unlocked := true }
      else some w := by
  rw [Watchdog.deadline_eq_ite_le]
  simp only [Watchdog.writeKey, Config.keyEnable_eq, Config.keyRefresh_eq, Config.keyUnlock_eq,
    BitVec.toNat_eq, BitVec.reduceToNat]
  split_ifs <;> rfl

theorem keyField_eq_ofNat (w : Word) : keyField w = BitVec.ofNat 16 w.toNat :=
  BitVec.eq_of_toNat_eq (by rw [keyField_toNat, BitVec.toNat_ofNat])

/-- Scheduling is the write of the scheduled watchdog. -/
theorem State.schedule_eq_afterWrite (s : State) (w : Watchdog) :
    s.schedule w =
      s.afterWrite
        ((s.wdg.deadline s.now).map fun d => ({ w with pendingExpiry := some d }, [])) := by
  unfold State.schedule
  cases s.wdg.deadline s.now <;> rfl

/-- R71: the row decoded for a key does what `writeKey` says in one piece. -/
theorem exec_decodeKey (w : Word) (s : State) :
    exec (decodeKey w) s =
      s.afterWrite ((s.wdg.writeKey s.now (keyField w)).map fun w' => (w', [])) := by
  rw [Watchdog.writeKey_eq]
  unfold decodeKey
  split_ifs with hE hR he hU
  · rw [exec_krEnable, State.schedule_eq_afterWrite, Option.map_map]
    rfl
  · rw [exec_krRefresh_armed _ he, State.schedule_eq_afterWrite, Option.map_map]
    rfl
  · rw [exec_krRefresh_disarmed _ (Bool.eq_false_iff.mpr he)]
    rfl
  · rfl
  · rfl

theorem Watchdog.memWrite_unmapped (w : Watchdog) (now : Time) {off : Nat} (v : Word)
    (h : isUnmapped off = true) : w.memWrite now off v = some (w, [.diag .write off]) := by
  obtain ⟨hkr, hpr, hrlr, hsr⟩ := isUnmapped_iff.mp h
  unfold Watchdog.memWrite
  split
  · exact absurd rfl hkr
  · exact absurd rfl hpr
  · exact absurd rfl hrlr
  · exact absurd rfl hsr
  · rfl

theorem storedReload_eq_ofNat (w : Word) :
    (rlField w).zeroExtend 12 = BitVec.ofNat 12 (w.toNat % 2 ^ 11) :=
  BitVec.eq_of_toNat_eq (by rw [storedReload_toNat, BitVec.toNat_ofNat]; omega)

theorem prField_eq_ofNat_toNat (w : Word) : prField w = BitVec.ofNat 3 w.toNat :=
  BitVec.eq_of_toNat_eq (by rw [prField_toNat, BitVec.toNat_ofNat])

/-- R34: the row decoded for a write does what `MemWrite` says in one piece. -/
theorem exec_decodeWrite (off : Nat) (w : Word) (s : State) :
    exec (decodeWrite off w) s = s.afterWrite (s.wdg.memWrite s.now off w) := by
  obtain hun | rfl | rfl | rfl | rfl := offset_cases off
  · rw [decodeWrite_unmapped w hun, Watchdog.memWrite_unmapped _ _ _ hun]
    rfl
  · refine (exec_decodeKey w s).trans ?_
    rw [keyField_eq_ofNat]
    rfl
  · cases hu : s.wdg.unlocked with
    | true =>
      refine (exec_prWrite_unlocked w hu).trans ?_
      simp only [Watchdog.memWrite, hu, if_true, ← prField_eq_ofNat_toNat]
      rfl
    | false =>
      refine (exec_prWrite_locked w hu).trans ?_
      simp [Watchdog.memWrite, hu, State.afterWrite]
  · cases hu : s.wdg.unlocked with
    | true =>
      refine (exec_rlrWrite_unlocked w hu).trans ?_
      simp only [Watchdog.memWrite, hu, if_true, ← storedReload_eq_ofNat]
      rfl
    | false =>
      refine (exec_rlrWrite_locked w hu).trans ?_
      simp [Watchdog.memWrite, hu, State.afterWrite]
  · rfl

theorem step_write {s : State} {t : Time} {off : Nat} {w : Word} {rest : List Stimulus}
    (h : s.inputs = { time := t, input := writeAccess off w } :: rest) (ht : s.now ≤ t) :
    step s = (s.take t rest).afterWrite (s.wdg.memWrite t off w) :=
  (step_of_decode h ht (decode_writeAccess _ off w)).trans (exec_decodeWrite off w _)

/-- Settles O35: the step performs the decoded row, which is `MemWrite`. -/
theorem writeStepIsMemWrite : Obligations.WriteStepIsMemWrite := by
  intro s t off w rest h ht
  rw [step_write h ht]
  cases s.wdg.memWrite t off w <;> rfl

end Sys2Proof.Machine

/-!
PROOF of O1, O43, O45 to O47, O55, O56, O58 and O59: rules that hold of every operation. What an operation
can do to the watchdog is said once, by `WatchdogEffect`, and what it can do to the rest of the state
beside the engines once, by `exec_shape`; the rules are read off these two.
-/

namespace Sys2Proof.Machine

/-! ## What an operation can do to the watchdog -/

/-- The operations that write no field of the watchdog, whatever its state. -/
def keepsWatchdog : Instr → Bool
  | .krEnable _ | .krRefresh _ | .krUnlock _ | .prWrite _ | .rlrWrite _ | .wdgReset | .wdgExpire => false
  | _ => true

theorem keepsWatchdog_of_serial {i : Instr} (h : isSerialOp i = true) : keepsWatchdog i = true := by
  cases i with
  | krEnable _ | krRefresh _ | krUnlock _ | prWrite _ | rlrWrite _ | wdgReset | wdgExpire => cases h
  | _ => rfl

/-- The watchdog after the operation `i` in the state `s`, by operation and case. -/
inductive WatchdogEffect (s : State) : Instr → Watchdog → Prop
  /-- R72 -/
  | enable {hi d} (hd : s.wdg.deadline s.now = some d) :
      WatchdogEffect s (.krEnable hi)
        { s.wdg with enabled := true, rebootOnExpiry := true, pendingExpiry := some d }
  /-- R73 while armed -/
  | refresh {hi d} (he : s.wdg.enabled = true) (hd : s.wdg.deadline s.now = some d) :
      WatchdogEffect s (.krRefresh hi) { s.wdg with pendingExpiry := some d }
  /-- R73 while disabled -/
  | refreshIdle {hi} (he : s.wdg.enabled = false) : WatchdogEffect s (.krRefresh hi) s.wdg
  /-- R74 -/
  | unlock {hi} : WatchdogEffect s (.krUnlock hi) { s.wdg with unlocked := true }
  /-- R76 while unlocked -/
  | prWrite {w} (hu : s.wdg.unlocked = true) :
      WatchdogEffect s (.prWrite w) { s.wdg with prescalerRaw := prField w }
  /-- R76 while locked -/
  | prWriteLocked {w} (hu : s.wdg.unlocked = false) : WatchdogEffect s (.prWrite w) s.wdg
  /-- R77 while unlocked -/
  | rlrWrite {w} (hu : s.wdg.unlocked = true) :
      WatchdogEffect s (.rlrWrite w) { s.wdg with reloadRegister := (rlField w).zeroExtend 12 }
  /-- R77 while locked -/
  | rlrWriteLocked {w} (hu : s.wdg.unlocked = false) : WatchdogEffect s (.rlrWrite w) s.wdg
  /-- R80 -/
  | reset : WatchdogEffect s .wdgReset s.wdg.reset
  /-- R81 with `rebootOnExpiry` -/
  | reboot (hready : s.expiryReady = true) (hr : s.wdg.rebootOnExpiry = true) :
      WatchdogEffect s .wdgExpire { s.wdg.reset with lastExpiryFlag := true }
  /-- R81 without it -/
  | inert (hready : s.expiryReady = true) (hr : s.wdg.rebootOnExpiry = false) :
      WatchdogEffect s .wdgExpire { s.wdg with pendingExpiry := none }
  /-- every other operation -/
  | keep {i} (hi : keepsWatchdog i = true) : WatchdogEffect s i s.wdg

theorem exec_watchdogEffect {i : Instr} {s t : State} (h : exec i s = .next t) :
    WatchdogEffect s i t.wdg := by
  cases hser : isSerialOp i with
  | true =>
    rw [exec_serial_frame hser h]
    exact .keep (keepsWatchdog_of_serial hser)
  | false =>
    cases i with
    | krEnable hi =>
      obtain ⟨d, hd, rfl⟩ := execKrEnable_next (hi := hi) h
      exact .enable hd
    | krRefresh hi =>
      obtain ⟨he, d, hd, rfl⟩ | ⟨he, rfl⟩ := execKrRefresh_next (hi := hi) h
      · exact .refresh he hd
      · exact .refreshIdle he
    | krUnlock _ =>
      cases h
      exact .unlock
    | prWrite _ =>
      obtain ⟨hu, rfl⟩ | ⟨hu, rfl⟩ := execPrWrite_next h
      · exact .prWrite hu
      · exact .prWriteLocked hu
    | rlrWrite _ =>
      obtain ⟨hu, rfl⟩ | ⟨hu, rfl⟩ := execRlrWrite_next h
      · exact .rlrWrite hu
      · exact .rlrWriteLocked hu
    | krOther _ | srWrite _ | krRead | prRead | rlrRead | srRead | unmappedWrite _ _
    | unmappedRead _ =>
      cases h
      exact .keep rfl
    | wdgReset =>
      cases h
      exact .reset
    | wdgExpire =>
      obtain ⟨hready, rfl⟩ := execWdgExpire_next h
      cases hr : s.wdg.rebootOnExpiry with
      | true =>
        rw [State.takeExpiry_reboot hr]
        exact .reboot hready hr
      | false =>
        rw [State.takeExpiry_inert hr]
        exact .inert hready hr
    | _ => cases hser

/-! ## What an operation can do beside the engines -/

/-- No operation moves the clock, takes a stimulus, changes a parameter or takes back an output, and none
records a reset action but the expiry that reboots, which records one. -/
theorem exec_shape {i : Instr} {s t : State} (h : exec i s = .next t) :
    ∃ l, t = { s with wdg := t.wdg, spd := t.spd, outputs := l ++ s.outputs } ∧
      resetActions l = if i = .wdgExpire ∧ s.wdg.rebootOnExpiry = true then 1 else 0 := by
  cases i with
  | krEnable hi =>
    obtain ⟨d, -, rfl⟩ := execKrEnable_next (hi := hi) h
    exact ⟨[], rfl, rfl⟩
  | krRefresh hi =>
    obtain ⟨-, d, -, rfl⟩ | ⟨-, rfl⟩ := execKrRefresh_next (hi := hi) h <;> exact ⟨[], rfl, rfl⟩
  | prWrite _ =>
    obtain ⟨-, rfl⟩ | ⟨-, rfl⟩ := execPrWrite_next h <;> exact ⟨[], rfl, rfl⟩
  | rlrWrite _ =>
    obtain ⟨-, rfl⟩ | ⟨-, rfl⟩ := execRlrWrite_next h <;> exact ⟨[], rfl, rfl⟩
  | krUnlock _ | krOther _ | srWrite _ | wdgReset | spdReset =>
    cases h
    exact ⟨[], rfl, rfl⟩
  | krRead | prRead | rlrRead | srRead | unmappedWrite _ _ | hdrWrite | hdrRead =>
    cases h
    exact ⟨[_], rfl, rfl⟩
  | unmappedRead _ =>
    cases h
    exact ⟨[_, _], rfl, rfl⟩
  | wdgExpire =>
    obtain ⟨-, rfl⟩ := execWdgExpire_next h
    cases hr : s.wdg.rebootOnExpiry with
    | true =>
      rw [State.takeExpiry_reboot hr]
      exact ⟨[.performResetAction], rfl, rfl⟩
    | false =>
      rw [State.takeExpiry_inert hr]
      exact ⟨[], rfl, rfl⟩
  | addrOor v => exact absurd h execAddrOor_not_next
  | addrImplicitWrite v =>
    obtain ⟨-, _, rfl⟩ := execAddrImplicitWrite_next h
    exact ⟨[_], rfl, rfl⟩
  | addrImplicitRead v =>
    obtain ⟨-, _, rfl⟩ := execAddrImplicitRead_next h
    exact ⟨[_], rfl, rfl⟩
  | addrLatch v =>
    obtain ⟨-, _, rfl⟩ := execAddrLatch_next h
    exact ⟨[_], rfl, rfl⟩
  | dataCommit v =>
    obtain ⟨-, _, -, rfl⟩ := execDataCommit_next h
    exact ⟨[_], rfl, rfl⟩
  | readDecoy v =>
    obtain ⟨-, rfl⟩ := execReadDecoy_next h
    exact ⟨[_], rfl, rfl⟩
  | readValue v =>
    obtain ⟨-, rfl⟩ := execReadValue_next h
    exact ⟨[_], rfl, rfl⟩
  | readSingle v =>
    obtain ⟨-, _, -, rfl⟩ := execReadSingle_next h
    exact ⟨[_], rfl, rfl⟩
  | pulseNop =>
    obtain ⟨-, rfl⟩ := execPulseNop_next h
    exact ⟨[_], rfl, rfl⟩
  | dataNop v =>
    obtain ⟨-, rfl⟩ := execDataNop_next h
    exact ⟨[_], rfl, rfl⟩

theorem exec_inputs {i : Instr} {s t : State} (h : exec i s = .next t) : t.inputs = s.inputs := by
  obtain ⟨l, hl, -⟩ := exec_shape h
  rw [hl]

theorem exec_reg0Default {i : Instr} {s t : State} (h : exec i s = .next t) :
    t.reg0Default = s.reg0Default := by
  obtain ⟨l, hl, -⟩ := exec_shape h
  rw [hl]

theorem exec_resetActions {i : Instr} {s t : State} (h : exec i s = .next t) :
    resetActions t.outputs =
      resetActions s.outputs + (if i = .wdgExpire ∧ s.wdg.rebootOnExpiry = true then 1 else 0) := by
  obtain ⟨l, hl, hcount⟩ := exec_shape h
  have hout : t.outputs = l ++ s.outputs := congrArg State.outputs hl
  have happend : resetActions (l ++ s.outputs) = resetActions l + resetActions s.outputs :=
    List.count_append
  rw [hout, happend, hcount, Nat.add_comm]

/-- Settles O55: the step moves the clock to its stimulus's time, which is not before it; the operation
then moves nothing back. -/
theorem clockNeverGoesBackAndParametersStay : Obligations.ClockNeverGoesBackAndParametersStay := by
  intro s t h
  obtain ⟨-, rfl⟩ | ⟨e, rest, i, -, hle, -, hexec⟩ := step_next h
  · exact ⟨BitVec.le_refl _, rfl, rfl, [], rfl⟩
  · obtain ⟨l, hl, -⟩ := exec_shape hexec
    rw [hl]
    exact ⟨hle, rfl, rfl, l, rfl⟩

/-! ## The control state, the deadline, the lock and the latch -/

section
variable {i : Instr} {s : State} {w : Watchdog}

theorem ne_of_keepsWatchdog {j : Instr} (h : keepsWatchdog i = true) (hj : keepsWatchdog j = false) :
    i ≠ j := by
  rintro rfl
  rw [h] at hj
  cases hj

theorem State.pending_of_expiryReady (h : s.expiryReady = true) : s.wdg.pendingExpiry ≠ none := by
  intro hn
  rw [State.expiryReady_of_none hn] at h
  cases h

/-- Where the invariants hold, an expiry that may be taken reboots (R17 (a), (b)). -/
theorem WatchdogInv.rebootOnExpiry_of_ready (hinv : WatchdogInv s.wdg) (h : s.expiryReady = true) :
    s.wdg.rebootOnExpiry = true :=
  hinv.reboot_eq_enabled ▸ hinv.pending_iff_enabled.mp (State.pending_of_expiryReady h)

/-- R84, the control state. -/
theorem WatchdogEffect.enabled_iff (h : WatchdogEffect s i w) (hinv : WatchdogInv s.wdg) :
    w.enabled = true ↔
      (∃ hi, i = .krEnable hi) ∨ (s.wdg.enabled = true ∧ i ≠ .wdgReset ∧ i ≠ .wdgExpire) := by
  cases h with
  | inert hready hr => simp [hinv.rebootOnExpiry_of_ready hready] at hr
  | keep hi =>
    have hE : ∀ hi, i ≠ .krEnable hi := fun _ => ne_of_keepsWatchdog hi rfl
    simp [hE, ne_of_keepsWatchdog hi (j := .wdgReset) rfl, ne_of_keepsWatchdog hi (j := .wdgExpire) rfl]
  | _ => simp

/-- R84, the deadline: the two keys schedule. -/
theorem WatchdogEffect.scheduled (h : WatchdogEffect s i w)
    (hkey : (∃ hi, i = .krEnable hi) ∨ ((∃ hi, i = .krRefresh hi) ∧ s.wdg.enabled = true)) :
    ∃ d : Time, w.pendingExpiry = some d ∧
      d.toNat = s.now.toNat + periodNs s.wdg.prescalerRaw s.wdg.reloadRegister := by
  obtain ⟨hi, rfl⟩ | ⟨⟨hi, rfl⟩, he⟩ := hkey
  · cases h with
    | enable hd => exact ⟨_, rfl, Watchdog.deadline_toNat hd⟩
    | keep hi => cases hi
  · cases h with
    | refresh _ hd => exact ⟨_, rfl, Watchdog.deadline_toNat hd⟩
    | refreshIdle he' => simp [he] at he'
    | keep hi => cases hi

theorem WatchdogEffect.not_pending (h : WatchdogEffect s i w) (hi : i = .wdgReset ∨ i = .wdgExpire) :
    w.pendingExpiry = none := by
  obtain rfl | rfl := hi
  · cases h with
    | reset => rfl
    | keep hi => cases hi
  · cases h with
    | reboot => rfl
    | inert => rfl
    | keep hi => cases hi

theorem WatchdogEffect.pending_kept (h : WatchdogEffect s i w) (hE : ∀ hi, i ≠ .krEnable hi)
    (hR : ∀ hi, i ≠ .krRefresh hi) (hreset : i ≠ .wdgReset) (hexpire : i ≠ .wdgExpire) :
    w.pendingExpiry = s.wdg.pendingExpiry := by
  cases h with
  | enable => exact absurd rfl (hE _)
  | refresh => exact absurd rfl (hR _)
  | reset => exact absurd rfl hreset
  | reboot => exact absurd rfl hexpire
  | inert => exact absurd rfl hexpire
  | _ => rfl

/-- R84, the lock. -/
theorem WatchdogEffect.unlocked_iff (h : WatchdogEffect s i w) (hinv : WatchdogInv s.wdg) :
    w.unlocked = true ↔
      (∃ hi, i = .krUnlock hi) ∨ (s.wdg.unlocked = true ∧ i ≠ .wdgReset ∧ i ≠ .wdgExpire) := by
  cases h with
  | inert hready hr => simp [hinv.rebootOnExpiry_of_ready hready] at hr
  | keep hi =>
    have hU : ∀ hi, i ≠ .krUnlock hi := fun _ => ne_of_keepsWatchdog hi rfl
    simp [hU, ne_of_keepsWatchdog hi (j := .wdgReset) rfl, ne_of_keepsWatchdog hi (j := .wdgExpire) rfl]
  | _ => simp

/-- The latch is set by the expiry that reboots and by nothing else (R15). -/
theorem WatchdogEffect.lastExpiryFlag_eq (h : WatchdogEffect s i w) :
    w.lastExpiryFlag =
      (s.wdg.lastExpiryFlag || (decide (i = .wdgExpire) && s.wdg.rebootOnExpiry)) := by
  cases h with
  | reboot _ hr => simp [hr]
  | inert _ hr => simp [hr]
  | keep hi => simp [ne_of_keepsWatchdog hi (j := .wdgExpire) rfl]
  | _ => simp

/-- A disarmed watchdog with nothing pending stays one without a new `KR_ENABLE` (R128). -/
theorem WatchdogEffect.stays_disarmed (h : WatchdogEffect s i w) (he : s.wdg.enabled = false)
    (hp : s.wdg.pendingExpiry = none) (hE : ∀ hi, i ≠ .krEnable hi) :
    w.enabled = false ∧ w.pendingExpiry = none := by
  cases h with
  | enable => exact absurd rfl (hE _)
  | refresh he' => simp [he] at he'
  | reset => exact ⟨rfl, rfl⟩
  | reboot => exact ⟨rfl, rfl⟩
  | inert => exact ⟨he, rfl⟩
  | _ => exact ⟨he, hp⟩

/-- While locked, only the two resets change the configuration (R129). -/
theorem WatchdogEffect.configuration_kept (h : WatchdogEffect s i w) (hl : s.wdg.unlocked = false)
    (hreset : i ≠ .wdgReset) (hexpire : i ≠ .wdgExpire) :
    w.prescalerRaw = s.wdg.prescalerRaw ∧ w.reloadRegister = s.wdg.reloadRegister := by
  cases h with
  | prWrite hu => simp [hl] at hu
  | rlrWrite hu => simp [hl] at hu
  | reset => exact absurd rfl hreset
  | reboot => exact absurd rfl hexpire
  | inert => exact absurd rfl hexpire
  | _ => exact ⟨rfl, rfl⟩

/-- A reset watchdog has the invariants, whatever its latch. -/
theorem WatchdogInv.of_reset (w : Watchdog) (b : Bool) :
    WatchdogInv { w.reset with lastExpiryFlag := b } :=
  ⟨rfl, by simp, by simp, .inr rfl⟩

/-- Every effect keeps R17 (a) to (d). -/
theorem WatchdogEffect.keeps_inv (h : WatchdogEffect s i w) (hinv : WatchdogInv s.wdg) :
    WatchdogInv w := by
  obtain ⟨hreboot, hpending, hraw, hreload⟩ := id hinv
  cases h with
  | enable => exact ⟨rfl, by simp, hraw, hreload⟩
  | refresh he => exact ⟨hreboot, by simp [he], hraw, hreload⟩
  | unlock => exact ⟨hreboot, hpending, hraw, hreload⟩
  | @prWrite p => exact ⟨hreboot, hpending, Nat.lt_succ_iff.mp (prField p).isLt, hreload⟩
  | @rlrWrite r =>
    have hlt : ((rlField r).zeroExtend 12).toNat ≤ 0x7FF := by
      rw [storedReload_toNat]
      omega
    exact ⟨hreboot, hpending, hraw, .inl hlt⟩
  | reset => exact WatchdogInv.of_reset s.wdg s.wdg.lastExpiryFlag
  | reboot => exact WatchdogInv.of_reset s.wdg true
  | inert hready hr => simp [hinv.rebootOnExpiry_of_ready hready] at hr
  | refreshIdle | prWriteLocked | rlrWriteLocked | keep => exact hinv

end

/-- Settles O43: each clause is one lemma on `WatchdogEffect`; the invariants rule out the inert expiry. -/
theorem controlAndLockStateTransitions : Obligations.ControlAndLockStateTransitions := by
  intro i s t hinv h
  have heff := exec_watchdogEffect h
  refine ⟨heff.enabled_iff hinv, heff.scheduled, heff.not_pending, heff.pending_kept, ?_, ?_,
    heff.unlocked_iff hinv⟩
  · rintro ⟨hi, rfl⟩ he
    rw [exec_krRefresh_disarmed hi he] at h
    cases h
    rfl
  · rintro rfl
    obtain ⟨hready, rfl⟩ := execWdgExpire_next h
    rw [State.takeExpiry_reboot (hinv.rebootOnExpiry_of_ready hready)]

/-- Settles O45: the count of reset actions is that of `exec_shape`. -/
theorem onlyARebootingExpiryResetsAndLatches : Obligations.OnlyARebootingExpiryResetsAndLatches :=
  fun _ _ _ h => ⟨exec_resetActions h, (exec_watchdogEffect h).lastExpiryFlag_eq⟩

/-- Settles O56: a step does nothing, or an operation, at a time that the invariants do not mention. -/
theorem everyStepKeepsTheWatchdogInvariant : Obligations.EveryStepKeepsTheWatchdogInvariant := by
  intro s t hinv h
  obtain ⟨-, rfl⟩ | ⟨e, rest, i, -, -, -, hexec⟩ := step_next h
  · exact hinv
  · exact (exec_watchdogEffect hexec).keeps_inv hinv

/-! ## Instantiation -/

/-- Settles O1: an address that is not 0 reads as 0 in the empty table. -/
theorem instantiationLeavesTheTabledValues : Obligations.InstantiationLeavesTheTabledValues :=
  ⟨fun _ _ => ⟨_, rfl, rfl, rfl, rfl, rfl, rfl, rfl, rfl, rfl, rfl, rfl, rfl, rfl, rfl,
    fun _ ha _ => if_neg ha.ne', rfl, rfl, rfl, rfl⟩, rfl⟩

/-- Settles O58: the watchdog is as a reset leaves it, the decoder is idle with an empty table. -/
theorem invariantsHoldAtInstantiation : Obligations.InvariantsHoldAtInstantiation := fun _ _ =>
  { wdg := WatchdogInv.of_reset Watchdog.instantiated false
    spd :=
      { latched_flagged := fun h => absurd rfl h
        phase_status := fun h => absurd rfl h
        latched_no_header := ⟨nofun, nofun⟩
        holder_zero := fun _ => rfl
        holder_staged := nofun
        table_wf := Memory.wf_nil
        unreachable_zero := ⟨rfl, rfl⟩ } }

/-! ## No second expiry -/

section
variable {q : Sequencing} {i : Instr} {s t : State}

/-- An access that is an operation is 32 bits wide and falls under a row of its own. -/
theorem decodeBus_eq_ok {a : BusAccess} (h : decodeBus a = .ok i) :
    a.width = .w32 ∧ BusRow i (.bus { a with wdata := if a.write then a.wdata else 0 }) := by
  obtain ⟨write, width, off, w⟩ := a
  cases width with
  | w32 =>
    cases write with
    | true =>
      cases h
      exact ⟨rfl, decodeWrite_busRow off w⟩
    | false =>
      cases h
      exact ⟨rfl, decodeRead_busRow off⟩
  | _ => cases h

/-- Only the write of its key is a `KR_ENABLE`. -/
theorem decode_eq_krEnable {inp : Input} {hi : BitVec 16} (h : decode q inp = .ok (.krEnable hi)) :
    inp = writeAccess 0x00 (keyWord hi Config.keyEnable) := by
  cases inp with
  | bus a =>
    obtain ⟨-, -, -, henc⟩ := decodeBus_eq_ok h
    obtain ⟨write, width, off, w⟩ := a
    cases write <;> cases henc
    rfl
  | transfer v =>
    obtain ⟨-, -, henc⟩ := serialRow_decodeByte q v
    rw [Except.ok.inj h] at henc
    cases henc
  | event e => cases e <;> cases h

/-- Nothing pending, no expiry, and so no reset action (R128). -/
theorem exec_disarmed (he : s.wdg.enabled = false) (hp : s.wdg.pendingExpiry = none)
    (hE : ∀ hi, i ≠ .krEnable hi) (h : exec i s = .next t) :
    t.wdg.enabled = false ∧ t.wdg.pendingExpiry = none ∧
      resetActions t.outputs = resetActions s.outputs := by
  have hexpire : i ≠ .wdgExpire := by
    rintro rfl
    exact State.pending_of_expiryReady (execWdgExpire_next h).1 hp
  obtain ⟨he', hp'⟩ := (exec_watchdogEffect h).stays_disarmed he hp hE
  exact ⟨he', hp', by simp [exec_resetActions h, hexpire]⟩

theorem run_succ_next {k : Nat} (h : run (k + 1) s = .next t) :
    ∃ u, step s = .next u ∧ run k u = .next t := by
  rw [run] at h
  split at h
  · exact ⟨_, ‹_›, h⟩
  · cases h
  · cases h

/-- No stimulus of the list is a write of the enabling key. -/
def NoEnable (l : List Stimulus) : Prop :=
  ∀ e ∈ l, ∀ w, e.input = writeAccess 0x00 w → w.toNat % 2 ^ 16 ≠ 0xCCCC

theorem step_disarmed (he : s.wdg.enabled = false) (hp : s.wdg.pendingExpiry = none)
    (hno : NoEnable s.inputs) (h : step s = .next t) :
    t.wdg.enabled = false ∧ t.wdg.pendingExpiry = none ∧
      resetActions t.outputs = resetActions s.outputs ∧ NoEnable t.inputs := by
  obtain ⟨-, rfl⟩ | ⟨e, rest, i, hin, -, hdec, hexec⟩ := step_next h
  · exact ⟨he, hp, rfl, hno⟩
  · rw [hin] at hno
    have hE : ∀ hi, i ≠ .krEnable hi := by
      rintro hi rfl
      refine hno e List.mem_cons_self _ (decode_eq_krEnable hdec) ?_
      rw [← keyField_toNat, keyField_keyWord]
      rfl
    obtain ⟨he', hp', hcount⟩ := exec_disarmed (s := s.take e.time rest) he hp hE hexec
    refine ⟨he', hp', hcount, ?_⟩
    rw [exec_inputs hexec]
    exact fun e' he' => hno e' (List.mem_cons_of_mem _ he')

theorem run_disarmed {k : Nat} (he : s.wdg.enabled = false) (hp : s.wdg.pendingExpiry = none)
    (hno : NoEnable s.inputs) (h : run k s = .next t) :
    t.wdg.enabled = false ∧ t.wdg.pendingExpiry = none ∧
      resetActions t.outputs = resetActions s.outputs := by
  induction k generalizing s with
  | zero =>
    cases h
    exact ⟨he, hp, rfl⟩
  | succ k ih =>
    obtain ⟨u, hstep, hrun⟩ := run_succ_next h
    obtain ⟨heu, hpu, hcount, hnou⟩ := step_disarmed he hp hno hstep
    obtain ⟨het, hpt, hcount'⟩ := ih heu hpu hnou hrun
    exact ⟨het, hpt, hcount'.trans hcount⟩

end

/-- Settles O46: the expiry's own reset disarms; from there on, step by step. -/
theorem noSecondExpiryWithoutANewEnable : Obligations.NoSecondExpiryWithoutANewEnable := by
  refine ⟨fun s hready hr => ?_, fun _ _ _ => exec_disarmed, fun _ _ _ => run_disarmed⟩
  refine ⟨_, exec_wdgExpire_ready hready, ?_, ?_, exec_wdgExpire_not_ready ?_⟩
  · rw [State.takeExpiry_reboot hr]
  · rw [State.takeExpiry_reboot hr]
    exact exec_wdgReset _
  · exact State.expiryReady_of_none s.takeExpiry_pending

/-! ## The lock -/

/-- The same state with the lock bit `b`. -/
def State.withLock (s : State) (b : Bool) : State := { s with wdg := { s.wdg with unlocked := b } }

/-- R129: an operation that is no configuration write does the same under either lock bit, but for the
bit itself. -/
theorem exec_withLock {i : Instr} {s t : State} (b : Bool) (hpr : ∀ w, i ≠ .prWrite w)
    (hrlr : ∀ w, i ≠ .rlrWrite w) (h : exec i s = .next t) :
    ∃ u, exec i (s.withLock b) = .next u ∧ u.withLock t.wdg.unlocked = t := by
  cases hser : isSerialOp i with
  | true =>
    have hover := next_of_commutes (exec_decoderOver hser (s.withLock b) s) h
    refine ⟨_, hover, ?_⟩
    conv_rhs => rw [exec_serial_frame hser h]
    rw [exec_serial_frame hser h]
    rfl
  | false =>
    cases i with
    | krEnable hi =>
      obtain ⟨d, hd, rfl⟩ := execKrEnable_next (hi := hi) h
      exact ⟨_, State.schedule_of_deadline _ hd, rfl⟩
    | krRefresh hi =>
      obtain ⟨he, d, hd, rfl⟩ | ⟨he, rfl⟩ := execKrRefresh_next (hi := hi) h
      · exact ⟨_, (if_pos he).trans (State.schedule_of_deadline (s := s.withLock b) _ hd), rfl⟩
      · exact ⟨_, exec_krRefresh_disarmed hi he, rfl⟩
    | prWrite w => exact absurd rfl (hpr w)
    | rlrWrite w => exact absurd rfl (hrlr w)
    | krUnlock _ | krOther _ | srWrite _ | krRead | prRead | rlrRead | srRead | unmappedWrite _ _
    | unmappedRead _ | wdgReset =>
      cases h
      exact ⟨_, rfl, rfl⟩
    | wdgExpire =>
      obtain ⟨hready, rfl⟩ := execWdgExpire_next h
      refine ⟨_, exec_wdgExpire_ready (s := s.withLock b) hready, ?_⟩
      cases hr : s.wdg.rebootOnExpiry with
      | true =>
        rw [State.takeExpiry_reboot hr, State.takeExpiry_reboot (s := s.withLock b) hr]
        rfl
      | false =>
        rw [State.takeExpiry_inert hr, State.takeExpiry_inert (s := s.withLock b) hr]
        rfl
    | _ => cases hser

/-- Settles O47: the first clause is read off `WatchdogEffect`, the second is `exec_withLock`. -/
theorem lockGatesConfigurationWritesOnly : Obligations.LockGatesConfigurationWritesOnly :=
  ⟨fun _ _ _ h => (exec_watchdogEffect h).configuration_kept, fun _ _ _ b => exec_withLock b⟩

/-! ## Fairness -/

/-- The delivery of the expiry consumes the deadline. -/
theorem step_delivers {s t : State} (hd : s.delivers) (h : step s = .next t) :
    t.expiryReady = false := by
  obtain ⟨time, rest, hin⟩ := hd
  obtain ⟨hnil, -⟩ | ⟨e, rest', i, hin', -, hdec, hexec⟩ := step_next h
  · rw [hin] at hnil
    cases hnil
  · rw [hin] at hin'
    cases hin'
    cases hdec
    exact State.expiryReady_of_none ((exec_watchdogEffect hexec).not_pending (.inr rfl))

/-- Settles O59: were the expiry ready from `n` on, fairness would deliver it, and then it is not. -/
theorem fairRunsDoNotKeepAnExpiryWaiting : Obligations.FairRunsDoNotKeepAnExpiryWaiting := by
  intro arrivals σ hrun hfair n _
  by_contra hnever
  have hready : ∀ m, n ≤ m → (σ m).expiryReady = true := fun m hm => by
    simpa using fun hfalse => hnever ⟨m, hm, hfalse⟩
  obtain ⟨m, hm, hdel⟩ := hfair n hready
  have hnext := hready (m + 1) (by omega)
  rw [step_delivers hdel (hrun m)] at hnext
  cases hnext

end Sys2Proof.Machine

/-!
PROOF of O49 to O52 and O57: rules of the decoder. What an operation can store is said once, by
`exec_tableRead_cases`; the decoder's invariants are kept by each change an operation makes to the
decoder, one lemma per change.
-/

namespace Sys2Proof.Machine

/-! ## What an operation can store -/

/-- R98: an entry is as before, or a commit has stored in it a byte that is no header, not zero and not
the entry's address. -/
theorem exec_tableRead_cases {i : Instr} {s t : State} (h : exec i s = .next t) (a : Nat) :
    t.tableRead a = s.tableRead a ∨
      ∃ v, i = .dataCommit v ∧ t.tableRead a = v ∧ isHeader v = false ∧ v ≠ 0 ∧ v.toNat ≠ a := by
  by_cases hi : ∃ v, i = .dataCommit v
  · obtain ⟨v, rfl⟩ := hi
    obtain ⟨hsel, A, hA, rfl⟩ := execDataCommit_next h
    obtain ⟨hv, hc⟩ := Sequencing.selects_dataCommit.mp hsel
    obtain ⟨-, hne, -⟩ := (Sequencing.commits_of_latched hA).mp hc
    by_cases ha : a = A.val
    · subst ha
      exact .inr ⟨v, rfl, State.tableRead_tableWrite_same s A v, hv, Sequencing.ne_zero_of_commits hc, hne⟩
    · exact .inl (State.tableRead_tableWrite_other s A v ha)
  · exact .inl (exec_keeps_table h (not_exists.mp hi) a)

/-- A step on a transfer byte that answers a next state has performed the byte's row. -/
theorem step_transfer_next {s t : State} {time : Time} {v : Byte} {rest : List Stimulus}
    (hin : s.inputs = { time := time, input := .transfer v } :: rest) (h : step s = .next t) :
    exec (decodeByte s.spd.seq v) (s.take time rest) = .next t := by
  obtain ⟨hnil, -⟩ | ⟨e, rest', i, hin', -, hdec, hexec⟩ := step_next h
  · rw [hin] at hnil
    cases hnil
  · rw [hin] at hin'
    cases hin'
    cases hdec
    exact hexec

/-- Settles O49: no byte stored is zero, and a zero byte is no commit. -/
theorem nonzeroEntriesNeverReturnToZero : Obligations.NonzeroEntriesNeverReturnToZero := by
  refine ⟨fun i s t h a ha => ?_, fun s t time rest a hin _ h b => ?_⟩
  · obtain hsame | ⟨v, -, hv, -, h0, -⟩ := exec_tableRead_cases h a
    · exact hsame ▸ ha
    · exact hv ▸ h0
  · have hexec := step_transfer_next hin h
    obtain hsame | ⟨v, hcommit, -, -, h0, -⟩ := exec_tableRead_cases hexec b
    · exact hsame
    · obtain ⟨-, -, henc⟩ := serialRow_decodeByte s.spd.seq 0
      rw [hcommit] at henc
      cases henc
      exact absurd rfl h0

/-- Settles O50: no byte stored is its own address, and such a byte falls under the row of R103. -/
theorem noRegisterIsWrittenWithItsOwnAddress : Obligations.NoRegisterIsWrittenWithItsOwnAddress := by
  refine ⟨fun i s t h a ha => ?_, fun s time rest v hin ht a hl hva hW hR hr => ?_⟩
  · obtain hsame | ⟨v, -, hv, -, -, hne⟩ := exec_tableRead_cases h a
    · exact hsame
    · exact absurd ha (hv ▸ hne)
  · obtain ⟨hdec, -⟩ := dataEqualToTheAddressIsDropped s v a hl hr hW hR (.inl hva)
    obtain ⟨-, hexec⟩ :=
      dataEqualToTheAddressIsDropped (s.take time rest) v a hl hr hW hR (.inl hva)
    exact ⟨_, (step_of_decode hin ht hdec).trans hexec, rfl⟩

/-- Settles O51: no byte stored is a header. -/
theorem headerValuesAreNeverStored : Obligations.HeaderValuesAreNeverStored := by
  intro i s t h a ha
  obtain hsame | ⟨v, -, hv, hheader, -, -⟩ := exec_tableRead_cases h a
  · exact hsame
  · obtain ⟨hW, hR⟩ := isHeader_eq_false.mp hheader
    rw [hv] at ha
    exact absurd ha (not_or.mpr ⟨hW, hR⟩)

/-! ## Steps that leave the decoder alone -/

theorem isSerialOp_of_busRow {i : Instr} {inp : Input} (h : BusRow i inp) : isSerialOp i = false := by
  obtain ⟨-, hformat, -⟩ := h
  rw [isSerialOp, hformat]
  have hne : i ≠ .spdReset := by
    rintro rfl
    cases hformat
  simp [hne]

/-- An input that is neither a transfer nor the decoder's reset is an operation of the watchdog (R1). -/
theorem isSerialOp_of_decode {q : Sequencing} {inp : Input} {i : Instr} (h : decode q inp = .ok i)
    (htransfer : ∀ v, inp ≠ .transfer v) (hreset : inp ≠ .event .spdReset) : isSerialOp i = false := by
  cases inp with
  | bus a => exact isSerialOp_of_busRow (decodeBus_eq_ok h).2
  | transfer v => exact absurd rfl (htransfer v)
  | event e =>
    cases e with
    | wdgReset | wdgExpire =>
      cases h
      rfl
    | spdReset => exact absurd rfl hreset

/-- Settles O52: the step's operation belongs to the watchdog, whose frame holds the decoder. -/
theorem pendingTransactionsWaitForEver : Obligations.PendingTransactionsWaitForEver := by
  intro s t h htransfer hreset
  obtain ⟨-, rfl⟩ | ⟨⟨time, inp⟩, rest, i, hin, -, hdec, hexec⟩ := step_next h
  · rfl
  · have hser : isSerialOp i = false := by
      refine isSerialOp_of_decode hdec (fun v => ?_) ?_
      · rintro rfl
        exact htransfer time v rest hin
      · rintro rfl
        exact hreset time rest hin
    rw [exec_watchdog_frame hser hexec]
    rfl

/-! ## The decoder's invariants -/

section
variable {reg0 : Byte} {d : Decoder} {a : TableAddr}

/-- An idle decoder has the invariants where its table has those of a table. -/
theorem DecoderInv.of_idle {m : Memory} (hwf : Memory.wf reg0 m = true)
    (hzero : Memory.read reg0 m 0x2F = 0 ∧ Memory.read reg0 m 0xAF = 0) :
    DecoderInv reg0 ⟨Sequencing.idle, 0, m⟩ where
  latched_flagged h := absurd rfl h
  phase_status h := absurd rfl h
  latched_no_header := ⟨nofun, nofun⟩
  holder_zero _ := rfl
  holder_staged := nofun
  table_wf := hwf
  unreachable_zero := hzero

theorem DecoderInv.toIdle (h : DecoderInv reg0 d) : DecoderInv reg0 d.toIdle :=
  .of_idle h.table_wf h.unreachable_zero

/-- A header sets a flag and clears none (R91, R92). -/
theorem DecoderInv.withFlags (h : DecoderInv reg0 d) {pw pr : Bool}
    (hpw : d.seq.pendingWrite = true → pw = true) (hpr : d.seq.pendingRead = true → pr = true) :
    DecoderInv reg0 { d with seq := { d.seq with pendingWrite := pw, pendingRead := pr } } where
  latched_flagged hl := (h.latched_flagged hl).imp hpw hpr
  phase_status hp := (h.phase_status hp).imp_right hpr
  latched_no_header := h.latched_no_header
  holder_zero := h.holder_zero
  holder_staged := h.holder_staged
  table_wf := h.table_wf
  unreachable_zero := h.unreachable_zero

/-- With nothing latched no read of `0x73` is under way (R23 (b)). -/
theorem DecoderInv.phase_idle (h : DecoderInv reg0 d) (hl : d.seq.latchedAddress = none) :
    d.seq.readPhase = .idle := by
  by_contra hp
  have hs := (h.phase_status hp).1
  rw [hl] at hs
  cases hs

/-- The latch of an address under a flag, from a state without one (R95). -/
theorem DecoderInv.latch (h : DecoderInv reg0 d) (hl : d.seq.latchedAddress = none)
    (hflag : d.seq.pendingWrite = true ∨ d.seq.pendingRead = true) (hW : a ≠ 0x2F) (hR : a ≠ 0xAF) :
    DecoderInv reg0 { d with seq := d.seq.latch a } := by
  have hidle := h.phase_idle hl
  have hphase : (d.seq.latch a).readPhase = .awaitingDecoy ∧ a = 0x73 ∧ d.seq.pendingRead = true ∨
      (d.seq.latch a).readPhase = .idle := by
    simp only [Sequencing.latch, hidle, Bool.and_eq_true, beq_iff_eq]
    split_ifs with hcond
    · exact .inl ⟨rfl, hcond.2, hcond.1⟩
    · exact .inr rfl
  have hnot : (d.seq.latch a).readPhase ≠ .awaitingValue := by
    obtain ⟨hp, -⟩ | hp := hphase <;> simp [hp]
  refine
    { latched_flagged := fun _ => hflag
      phase_status := fun hp => ?_
      latched_no_header := ⟨fun hs => hW (Option.some.inj hs), fun hs => hR (Option.some.inj hs)⟩
      holder_zero := fun _ => h.holder_zero (by simp [hidle])
      holder_staged := fun hp => absurd hp hnot
      table_wf := h.table_wf
      unreachable_zero := h.unreachable_zero }
  obtain ⟨-, rfl, hr⟩ := hphase.resolve_right hp
  exact ⟨rfl, hr⟩

/-- A store at a latched address, which is no header's (R98). -/
theorem DecoderInv.commit (h : DecoderInv reg0 d) (ha : d.seq.latchedAddress = some a) (v : Byte) :
    DecoderInv reg0 ⟨Sequencing.idle, 0, Memory.write reg0 d.regs a.val v⟩ := by
  obtain ⟨hW, hR⟩ := h.latched_no_header
  obtain ⟨hzW, hzR⟩ := h.unreachable_zero
  have hneW : (0x2F : Nat) ≠ a.val := fun he => hW (ha.trans (congrArg some (Fin.ext he.symm)))
  have hneR : (0xAF : Nat) ≠ a.val := fun he => hR (ha.trans (congrArg some (Fin.ext he.symm)))
  refine .of_idle (Memory.wf_write v h.table_wf a.isLt) ⟨?_, ?_⟩
  · rw [Memory.read_write_other _ _ hneW, hzW]
  · rw [Memory.read_write_other _ _ hneR, hzR]

/-- The first phase of a read of `0x73` stages the value (R100). -/
theorem DecoderInv.stage (h : DecoderInv reg0 d) (ha : d.seq.latchedAddress = some 0x73)
    (hr : d.seq.pendingRead = true) :
    DecoderInv reg0
      { d with
        seq := { d.seq with readPhase := .awaitingValue }
        decoyHolder := Memory.read reg0 d.regs 0x73 } where
  latched_flagged := h.latched_flagged
  phase_status _ := ⟨ha, hr⟩
  latched_no_header := h.latched_no_header
  holder_zero hp := absurd rfl hp
  holder_staged _ := rfl
  table_wf := h.table_wf
  unreachable_zero := h.unreachable_zero

end

/-- The address of a byte that is no header is not a header's. -/
theorem addr_ne_header {v : Byte} (hv : isHeader v = false) (hlt : v.toNat < 217) :
    (⟨v.toNat, hlt⟩ : TableAddr) ≠ 0x2F ∧ (⟨v.toNat, hlt⟩ : TableAddr) ≠ 0xAF := by
  obtain ⟨hW, hR⟩ := toNat_ne_of_isHeader hv
  exact ⟨fun h => hW (congrArg Fin.val h), fun h => hR (congrArg Fin.val h)⟩

/-- Every serial operation makes one of these changes to the decoder, or none. -/
theorem exec_serial_keeps_decoderInv {i : Instr} {s t : State} (hser : isSerialOp i = true)
    (hinv : DecoderInv s.reg0Default s.spd) (h : exec i s = .next t) :
    DecoderInv s.reg0Default t.spd := by
  cases i with
  | hdrWrite =>
    cases h
    exact hinv.withFlags (fun _ => rfl) id
  | hdrRead =>
    cases h
    exact hinv.withFlags id fun _ => rfl
  | spdReset =>
    cases h
    exact hinv.toIdle
  | addrOor v => exact absurd h execAddrOor_not_next
  | addrImplicitWrite v =>
    obtain ⟨hsel, hlt, rfl⟩ := execAddrImplicitWrite_next h
    obtain ⟨hl, -, -, hlow⟩ := Sequencing.selects_addrImplicitWrite.mp hsel
    obtain ⟨hW, hR⟩ := addr_ne_header (isHeader_of_lt hlow) hlt
    exact (hinv.withFlags (fun _ => rfl) id).latch hl (.inl rfl) hW hR
  | addrImplicitRead v =>
    obtain ⟨hsel, hlt, rfl⟩ := execAddrImplicitRead_next h
    obtain ⟨hl, -, -, hv, -, -⟩ := Sequencing.selects_addrImplicitRead.mp hsel
    obtain ⟨hW, hR⟩ := addr_ne_header hv hlt
    exact (hinv.withFlags id fun _ => rfl).latch hl (.inr rfl) hW hR
  | addrLatch v =>
    obtain ⟨hsel, hlt, rfl⟩ := execAddrLatch_next h
    obtain ⟨hl, hflag, hv, -⟩ := Sequencing.selects_addrLatch.mp hsel
    obtain ⟨hW, hR⟩ := addr_ne_header hv hlt
    exact hinv.latch hl hflag hW hR
  | dataCommit v =>
    obtain ⟨-, a, ha, rfl⟩ := execDataCommit_next h
    exact hinv.commit ha v
  | readDecoy v =>
    obtain ⟨hsel, rfl⟩ := execReadDecoy_next h
    obtain ⟨hclock, ha, -⟩ := Sequencing.selects_readDecoy.mp hsel
    obtain ⟨-, -, hr, -⟩ := Sequencing.clocksRead_iff.mp hclock
    exact hinv.stage ha hr
  | readValue v =>
    obtain ⟨-, rfl⟩ := execReadValue_next h
    exact hinv.toIdle
  | readSingle v =>
    obtain ⟨-, a, -, rfl⟩ := execReadSingle_next h
    exact hinv.toIdle
  | pulseNop =>
    obtain ⟨-, rfl⟩ := execPulseNop_next h
    exact hinv
  | dataNop v =>
    obtain ⟨-, rfl⟩ := execDataNop_next h
    exact hinv
  | _ => cases hser

/-- Settles O57: an operation of the decoder keeps its invariants, and every other keeps the decoder. -/
theorem everyStepKeepsTheDecoderInvariant : Obligations.EveryStepKeepsTheDecoderInvariant := by
  intro s t hinv h
  obtain ⟨-, rfl⟩ | ⟨e, rest, i, -, -, -, hexec⟩ := step_next h
  · exact hinv
  · rw [exec_reg0Default hexec]
    cases hser : isSerialOp i with
    | true => exact exec_serial_keeps_decoderInv hser hinv hexec
    | false =>
      rw [exec_watchdog_frame hser hexec]
      exact hinv

end Sys2Proof.Machine

/-!
PROOF of O53 (`30_encoding.md` R57): the six transactions, byte by byte through `onTransferByte`. Between
two bytes the decoder is in one of four states: idle, after a header, or with an address latched for a
write or for a read.
-/

namespace Sys2Proof.Machine

/-! ## The states within a transaction -/

/-- Idle, with the table `m`. -/
def Decoder.idleWith (m : Memory) : Decoder := ⟨Sequencing.idle, 0, m⟩

/-- After the write header. -/
def Decoder.writeHeaderSeen (m : Memory) : Decoder := ⟨⟨true, false, none, .idle⟩, 0, m⟩

/-- After the read header. -/
def Decoder.readHeaderSeen (m : Memory) : Decoder := ⟨⟨false, true, none, .idle⟩, 0, m⟩

/-- With `a` latched for a write. -/
def Decoder.writingAt (m : Memory) (a : TableAddr) : Decoder := ⟨⟨true, false, some a, .idle⟩, 0, m⟩

/-- With `a` latched for a read, before its first clock byte. -/
def Decoder.readingAt (m : Memory) (a : TableAddr) : Decoder :=
  ⟨⟨false, true, some a, if a = 0x73 then .awaitingDecoy else .idle⟩, 0, m⟩

/-- Between the two phases of a read of `0x73`, with the value staged. -/
def Decoder.staged (reg0 : Byte) (m : Memory) : Decoder :=
  ⟨⟨false, true, some 0x73, .awaitingValue⟩, Memory.read reg0 m 0x73, m⟩

theorem Decoder.eq_idleWith {d : Decoder} (hseq : d.seq = Sequencing.idle) (hz : d.decoyHolder = 0) :
    d = Decoder.idleWith d.regs := by
  obtain ⟨q, b, m⟩ := d
  obtain rfl : q = Sequencing.idle := hseq
  obtain rfl : b = 0 := hz
  rfl

/-! ## One byte -/

section
variable {reg0 : Byte} {m : Memory} {v : Byte} {a : TableAddr}

theorem onTransferByte_writeHeader :
    onTransferByte reg0 (.idleWith m) 0x2F = some (.writeHeaderSeen m, 0) := rfl

theorem onTransferByte_readHeader :
    onTransferByte reg0 (.idleWith m) 0xAF = some (.readHeaderSeen m, 0) := rfl

theorem onTransferByte_addressAfterWriteHeader (hv : isHeader v = false) (hlt : v.toNat < 217) :
    onTransferByte reg0 (.writeHeaderSeen m) v = some (.writingAt m ⟨v.toNat, hlt⟩, 0) :=
  onTransferByte_address (pw := true) (pr := false) hv rfl hlt rfl rfl

theorem onTransferByte_implicitWrite (hlow : v.toNat < 0x2F) (hlt : v.toNat < 217) :
    onTransferByte reg0 (.idleWith m) v = some (.writingAt m ⟨v.toNat, hlt⟩, 0) :=
  onTransferByte_address (pw := true) (pr := false) (isHeader_of_lt hlow) rfl hlt
    (by simp [Decoder.idleWith, hlow]) (by simp [Decoder.idleWith, hlow])

/-- The latch for a read, with the phase that R95 gives it. -/
theorem Decoder.readingAt_eq (m : Memory) (a : TableAddr) :
    (⟨Sequencing.latch ⟨false, true, none, .idle⟩ a, 0, m⟩ : Decoder) = .readingAt m a := by
  simp [Sequencing.latch, Decoder.readingAt]

theorem onTransferByte_addressAfterReadHeader (hv : isHeader v = false) (hlt : v.toNat < 217) :
    onTransferByte reg0 (.readHeaderSeen m) v = some (.readingAt m ⟨v.toNat, hlt⟩, 0) :=
  Decoder.readingAt_eq m ⟨v.toNat, hlt⟩ ▸
    onTransferByte_address (pw := false) (pr := true) hv rfl hlt rfl rfl

theorem onTransferByte_implicitRead (hv : isHeader v = false) (hhigh : ¬ v.toNat < 0x2F)
    (hlt : v.toNat < 217) :
    onTransferByte reg0 (.idleWith m) v = some (.readingAt m ⟨v.toNat, hlt⟩, 0) :=
  Decoder.readingAt_eq m ⟨v.toNat, hlt⟩ ▸
    onTransferByte_address (pw := false) (pr := true) hv rfl hlt
      (by simp [Decoder.idleWith, hhigh]) (by simp [Decoder.idleWith, hhigh])

theorem onTransferByte_data (hv : isHeader v = false) (h0 : v ≠ 0) (hne : v.toNat ≠ a.val) :
    onTransferByte reg0 (.writingAt m a) v = some (.idleWith (Memory.write reg0 m a.val v), 0) := by
  have hc : (Decoder.writingAt m a).seq.commits v = true :=
    (Sequencing.commits_of_latched rfl).mpr ⟨rfl, hne, fun hz => h0 hz.1⟩
  rw [onTransferByte_latched hv rfl, if_pos hc]
  rfl

/-- With no write pending every byte but a header clocks the read (R96). -/
theorem onTransferByte_clocksRead {d : Decoder} (hv : isHeader v = false)
    (ha : d.seq.latchedAddress = some a) (hw : d.seq.pendingWrite = false)
    (hr : d.seq.pendingRead = true) :
    onTransferByte reg0 d v =
      if a = 0x73 ∧ d.seq.readPhase ≠ .awaitingValue then
        some (⟨{ d.seq with readPhase := .awaitingValue }, Memory.read reg0 d.regs 0x73, d.regs⟩, 0x41)
      else some (d.toIdle, Memory.read reg0 d.regs a.val) := by
  have hc : d.seq.commits v = false := (Sequencing.commits_eq_false ha).mpr fun h => by simp [hw] at h
  rw [onTransferByte_latched hv ha, if_neg (Bool.eq_false_iff.mp hc), if_pos hr]

theorem onTransferByte_clock (hv : isHeader v = false) (h73 : a ≠ 0x73) :
    onTransferByte reg0 (.readingAt m a) v = some (.idleWith m, Memory.read reg0 m a.val) :=
  (onTransferByte_clocksRead hv rfl rfl rfl).trans (if_neg fun h => h73 h.1)

theorem onTransferByte_clockDecoy (hv : isHeader v = false) :
    onTransferByte reg0 (.readingAt m 0x73) v = some (.staged reg0 m, 0x41) :=
  (onTransferByte_clocksRead hv rfl rfl rfl).trans (if_pos ⟨rfl, nofun⟩)

theorem onTransferByte_clockValue (hv : isHeader v = false) :
    onTransferByte reg0 (.staged reg0 m) v = some (.idleWith m, Memory.read reg0 m 0x73) :=
  (onTransferByte_clocksRead hv rfl rfl rfl).trans (if_neg fun h => h.2 rfl)

end

/-! ## Runs over bytes -/

/-- The state after transfers up to time `t`, with `rest` to come, the decoder `d` and the answers `l`. -/
def State.transferred (s : State) (t : Time) (rest : List Stimulus) (d : Decoder) (l : List Output) :
    State :=
  { s with now := t, inputs := rest, spd := d, outputs := l ++ s.outputs }

section
variable {s : State} {t : Time} {v b : Byte} {rest : List Stimulus} {d d' : Decoder} {l : List Output}
  {k : Nat}

theorem run_transfer (hin : s.inputs = { time := t, input := .transfer v } :: rest) (ht : s.now ≤ t)
    (hb : onTransferByte s.reg0Default s.spd v = some (d, b)) :
    run (k + 1) s = run k (s.transferred t rest d [.response b]) := by
  simp only [run, step_transfer hin ht, hb]
  rfl

/-- The same within a transaction. -/
theorem run_transferred (hb : onTransferByte s.reg0Default d v = some (d', b)) :
    run (k + 1) (s.transferred t ({ time := t, input := .transfer v } :: rest) d l) =
      run k (s.transferred t rest d' (.response b :: l)) :=
  run_transfer rfl (BitVec.le_refl t) hb

/-- A table as it was after a write but at one address, where it holds the byte written. -/
theorem State.transferred_write (s : State) (t : Time) (rest : List Stimulus) (l : List Output)
    (a : Nat) (v : Byte) :
    (s.transferred t rest (.idleWith (Memory.write s.reg0Default s.spd.regs a v)) l).tableRead a = v ∧
    ∀ b, b ≠ a →
      (s.transferred t rest (.idleWith (Memory.write s.reg0Default s.spd.regs a v)) l).tableRead b =
        s.tableRead b :=
  ⟨Memory.read_write_same _ _ _, fun _ hb => Memory.read_write_other _ _ hb⟩

end

/-- Settles O53: each transaction goes from idle through the states above and back. -/
theorem transactionsAnswerAsTabled : Obligations.TransactionsAnswerAsTabled := by
  intro s t rest a d c c' hseq hz ht ha haW haR hdW hdR hd0 hda hcW hcR hcW' hcR'
  have hidle : s.spd = .idleWith s.spd.regs := Decoder.eq_idleWith hseq hz
  have hav := isHeader_eq_false.mpr ⟨haW, haR⟩
  have hdv := isHeader_eq_false.mpr ⟨hdW, hdR⟩
  have hcv := isHeader_eq_false.mpr ⟨hcW, hcR⟩
  have hcv' := isHeader_eq_false.mpr ⟨hcW', hcR'⟩
  have hlt : a.toNat < 217 := by omega
  have hne : d.toNat ≠ a.toNat := fun h => hda (BitVec.eq_of_toNat_eq h)
  have hdata := onTransferByte_data (reg0 := s.reg0Default) (m := s.spd.regs) (a := ⟨a.toNat, hlt⟩)
    hdv hd0 hne
  have hne73 : a ≠ 0x73 → (⟨a.toNat, hlt⟩ : TableAddr) ≠ 0x73 := fun h h' =>
    h ((addr_eq_status_iff hlt).mp h')
  refine ⟨fun hin => ?_, fun hin hlow => ?_, fun hin h73 => ?_, fun hin hhigh h73 => ?_, fun hin => ?_,
    fun hin => ?_⟩
  · have hrun := (run_transfer (k := 2) hin ht (hidle ▸ onTransferByte_writeHeader)).trans
      ((run_transferred (onTransferByte_addressAfterWriteHeader hav hlt)).trans (run_transferred hdata))
    obtain ⟨hsame, hother⟩ := s.transferred_write t rest [.response 0, .response 0, .response 0] a.toNat d
    exact ⟨_, hrun, hsame, hother, rfl, rfl, rfl⟩
  · have hrun := (run_transfer (k := 1) hin ht (hidle ▸ onTransferByte_implicitWrite hlow hlt)).trans
      (run_transferred hdata)
    obtain ⟨hsame, hother⟩ := s.transferred_write t rest [.response 0, .response 0] a.toNat d
    exact ⟨_, hrun, hsame, hother, rfl, rfl, rfl⟩
  · have hrun := (run_transfer (k := 2) hin ht (hidle ▸ onTransferByte_readHeader)).trans
      ((run_transferred (onTransferByte_addressAfterReadHeader hav hlt)).trans
        (run_transferred (onTransferByte_clock hcv (hne73 h73))))
    exact ⟨_, hrun, hidle.symm, rfl, rfl⟩
  · have hrun := (run_transfer (k := 1) hin ht
      (hidle ▸ onTransferByte_implicitRead hav (by omega) hlt)).trans
        (run_transferred (onTransferByte_clock hcv (hne73 h73)))
    exact ⟨_, hrun, hidle.symm, rfl, rfl⟩
  · have hrun := (run_transfer (k := 3) hin ht (hidle ▸ onTransferByte_readHeader)).trans
      ((run_transferred (onTransferByte_addressAfterReadHeader (by decide) (by decide))).trans
        ((run_transferred (onTransferByte_clockDecoy hcv)).trans
          (run_transferred (onTransferByte_clockValue hcv'))))
    exact ⟨_, hrun, hidle.symm, rfl, rfl⟩
  · have hrun := (run_transfer (k := 2) hin ht
      (hidle ▸ onTransferByte_implicitRead (by decide) (by decide) (by decide))).trans
        ((run_transferred (onTransferByte_clockDecoy hcv)).trans
          (run_transferred (onTransferByte_clockValue hcv')))
    exact ⟨_, hrun, hidle.symm, rfl, rfl⟩

end Sys2Proof.Machine

/-!
PROOF of O54 (`60_exceptions.md` R120, R122). The stops are one relation, `Stops`, with a case for each
that the spec or the model names: a step from such a state stops so, and every other step completes.
-/

namespace Sys2Proof.Machine

/-- The keys that schedule, in the state they meet. -/
def Schedules (s : State) (w : Word) : Prop :=
  w.toNat % 2 ^ 16 = 0xCCCC ∨ (w.toNat % 2 ^ 16 = 0xAAAA ∧ s.wdg.enabled = true)

/-- The states from which a step stops, with the outcome. -/
inductive Stops (s : State) : Outcome → Prop
  /-- R97 -/
  | addrOutOfRange {t v rest} (hin : s.inputs = { time := t, input := .transfer v } :: rest)
      (ht : s.now ≤ t) (hl : s.spd.seq.latchedAddress = none) (hge : 217 ≤ v.toNat) :
      Stops s (.fault .addrOutOfRange)
  /-- R126 (d) -/
  | timeReversed {t inp rest} (hin : s.inputs = { time := t, input := inp } :: rest)
      (ht : t < s.now) : Stops s (.refused .timeReversed)
  /-- R37 -/
  | accessWidth {t a rest} (hin : s.inputs = { time := t, input := .bus a } :: rest)
      (ht : s.now ≤ t) (hw : a.width ≠ .w32) : Stops s (.refused .accessWidth)
  /-- R72, R73, R85 -/
  | deadlineOverflow {t w rest} (hin : s.inputs = { time := t, input := writeAccess 0x00 w } :: rest)
      (ht : s.now ≤ t) (hkey : Schedules s w)
      (hover : 2 ^ 64 ≤ t.toNat + periodNs s.wdg.prescalerRaw s.wdg.reloadRegister) :
      Stops s (.refused .deadlineOverflow)
  /-- R126 -/
  | expiryNotEnabled {t rest} (hin : s.inputs = { time := t, input := .event .wdgExpire } :: rest)
      (ht : s.now ≤ t) (hd : ∀ d, s.wdg.pendingExpiry = some d → t < d) :
      Stops s (.refused .expiryNotEnabled)

/-! ## The operations that may stop -/

section
variable {s : State} {w : Word}

theorem decodeBus_of_width {a : BusAccess} (h : a.width ≠ .w32) : decodeBus a = .error .accessWidth := by
  obtain ⟨write, width, off, w⟩ := a
  cases width with
  | w32 => exact absurd rfl h
  | _ => rfl

theorem keyField_eq_iff {k : BitVec 16} : keyField w = k ↔ w.toNat % 2 ^ 16 = k.toNat := by
  rw [← keyField_toNat, BitVec.toNat_inj]

theorem exec_decodeKey_schedules (h : Schedules s w) :
    ∃ w', exec (decodeKey w) s = s.schedule w' := by
  obtain hE | ⟨hR, he⟩ := h
  · rw [decodeKey_enable (keyField_eq_iff.mpr hE)]
    exact ⟨_, exec_krEnable _ s⟩
  · rw [decodeKey_refresh (keyField_eq_iff.mpr hR)]
    exact ⟨_, exec_krRefresh_armed _ he⟩

/-- A key that does not schedule completes. -/
theorem exec_decodeKey_of_not_schedules (h : ¬ Schedules s w) : ∃ u, exec (decodeKey w) s = .next u := by
  obtain ⟨hE, hR⟩ := not_or.mp h
  unfold decodeKey
  split_ifs with hE' hR' hU
  · exact absurd (keyField_eq_iff.mp hE') hE
  · refine ⟨s, exec_krRefresh_disarmed _ (Bool.eq_false_iff.mpr fun he => ?_)⟩
    exact hR ⟨keyField_eq_iff.mp hR', he⟩
  · exact ⟨_, exec_krUnlock _ s⟩
  · exact ⟨s, exec_krOther w s⟩

/-- A write elsewhere than at KR completes. -/
theorem exec_decodeWrite_of_ne_kr {off : Nat} (h : off ≠ 0x00) :
    ∃ u, exec (decodeWrite off w) s = .next u := by
  unfold decodeWrite
  split_ifs with hkr
  · exact absurd hkr h
  · cases hu : s.wdg.unlocked with
    | true => exact ⟨_, exec_prWrite_unlocked w hu⟩
    | false => exact ⟨_, exec_prWrite_locked w hu⟩
  · cases hu : s.wdg.unlocked with
    | true => exact ⟨_, exec_rlrWrite_unlocked w hu⟩
    | false => exact ⟨_, exec_rlrWrite_locked w hu⟩
  · exact ⟨s, rfl⟩
  · exact ⟨_, exec_unmappedWrite off w s⟩

/-- `onTransferByte` answers unless an address is out of range. -/
theorem onTransferByte_some {reg0 : Byte} {d : Decoder} {v : Byte}
    (h : ¬ (d.seq.latchedAddress = none ∧ 217 ≤ v.toNat)) :
    ∃ r, onTransferByte reg0 d v = some r := by
  by_cases hW : v.toNat = 0x2F
  · exact ⟨_, if_pos hW⟩
  by_cases hR : v.toNat = 0xAF
  · exact ⟨_, (if_neg hW).trans (if_pos hR)⟩
  have hv : isHeader v = false :=
    isHeader_eq_false.mpr ⟨fun h => hW (h ▸ rfl), fun h => hR (h ▸ rfl)⟩
  cases hl : d.seq.latchedAddress with
  | none =>
    have hlt : v.toNat < 217 := Nat.not_le.mp fun hge => h ⟨hl, hge⟩
    exact ⟨_, onTransferByte_address hv hl hlt rfl rfl⟩
  | some a =>
    rw [onTransferByte_latched hv hl]
    split_ifs <;> exact ⟨_, rfl⟩

/-- The expiry is not ready exactly while every deadline that is pending lies ahead. -/
theorem State.expiryReady_eq_false_iff :
    s.expiryReady = false ↔ ∀ d, s.wdg.pendingExpiry = some d → s.now < d := by
  cases hp : s.wdg.pendingExpiry with
  | none => simp [State.expiryReady_of_none hp]
  | some d => simp [State.expiryReady_of_pending hp]

end

/-! ## A step stops there and nowhere else -/

theorem Stops.step_eq {s : State} {o : Outcome} (h : Stops s o) : step s = o := by
  cases h with
  | addrOutOfRange hin ht hl hge =>
    rw [step_transfer hin ht, onTransferByte_oor hl hge]
    rfl
  | timeReversed hin ht => exact step_of_past hin ht
  | accessWidth hin ht hw => exact step_of_decode_error hin ht (decodeBus_of_width hw)
  | @deadlineOverflow t w rest hin ht hkey hover =>
    obtain ⟨w', hw'⟩ := exec_decodeKey_schedules (s := s.take t rest) hkey
    rw [step_of_decode hin ht (decode_writeAccess_kr _ w), hw',
      State.schedule_of_overflow _ (Watchdog.deadline_eq_none.mpr hover)]
  | @expiryNotEnabled t rest hin ht hd =>
    exact (step_of_decode hin ht rfl).trans
      (exec_wdgExpire_not_ready (s := s.take t rest) (State.expiryReady_eq_false_iff.mpr hd))

section
variable {s : State} {t : Time} {rest : List Stimulus}

theorem step_bus_next_or_stops {a : BusAccess}
    (hin : s.inputs = { time := t, input := .bus a } :: rest) (ht : s.now ≤ t) :
    (∃ u, step s = .next u) ∨ Stops s (step s) := by
  by_cases hw : a.width = .w32
  · obtain ⟨write, width, off, w⟩ := a
    obtain rfl : width = .w32 := hw
    cases write with
    | false =>
      exact .inl ⟨_, (step_of_decode hin ht (decode_read _ off w)).trans (exec_decodeRead off _)⟩
    | true =>
      rw [step_of_decode hin ht (decode_writeAccess _ off w)]
      by_cases hkr : off = 0x00
      · subst hkr
        by_cases hkey : Schedules (s.take t rest) w
        · obtain ⟨w', hw'⟩ := exec_decodeKey_schedules hkey
          obtain ⟨d, -, hd⟩ | ⟨hover, hd⟩ := State.schedule_cases (s.take t rest) w'
          · exact .inl ⟨_, hw'.trans hd⟩
          · have hstop := Stops.deadlineOverflow hin ht hkey (Watchdog.deadline_eq_none.mp hover)
            exact .inr ((hw'.trans hd).symm ▸ hstop)
        · exact .inl (exec_decodeKey_of_not_schedules hkey)
      · exact .inl (exec_decodeWrite_of_ne_kr hkr)
  · have hstop := Stops.accessWidth hin ht hw
    exact .inr (hstop.step_eq.symm ▸ hstop)

theorem step_transfer_next_or_stops {v : Byte}
    (hin : s.inputs = { time := t, input := .transfer v } :: rest) (ht : s.now ≤ t) :
    (∃ u, step s = .next u) ∨ Stops s (step s) := by
  by_cases hoor : s.spd.seq.latchedAddress = none ∧ 217 ≤ v.toNat
  · have hstop := Stops.addrOutOfRange hin ht hoor.1 hoor.2
    exact .inr (hstop.step_eq.symm ▸ hstop)
  · obtain ⟨r, hr⟩ := onTransferByte_some (reg0 := s.reg0Default) hoor
    rw [step_transfer hin ht, hr]
    exact .inl ⟨_, rfl⟩

theorem step_event_next_or_stops {e : Event}
    (hin : s.inputs = { time := t, input := .event e } :: rest) (ht : s.now ≤ t) :
    (∃ u, step s = .next u) ∨ Stops s (step s) := by
  cases e with
  | wdgReset => exact .inl ⟨_, (step_of_decode hin ht rfl).trans (exec_wdgReset _)⟩
  | spdReset => exact .inl ⟨_, (step_of_decode hin ht rfl).trans (exec_spdReset _)⟩
  | wdgExpire =>
    cases hready : (s.take t rest).expiryReady with
    | true => exact .inl ⟨_, (step_of_decode hin ht rfl).trans (exec_wdgExpire_ready hready)⟩
    | false =>
      have hstop := Stops.expiryNotEnabled hin ht (State.expiryReady_eq_false_iff.mp hready)
      exact .inr (hstop.step_eq.symm ▸ hstop)

end

theorem step_next_or_stops (s : State) : (∃ u, step s = .next u) ∨ Stops s (step s) := by
  cases hin : s.inputs with
  | nil => exact .inl ⟨s, step_nil hin⟩
  | cons e rest =>
    obtain ⟨t, inp⟩ := e
    by_cases ht : s.now ≤ t
    · cases inp with
      | bus a => exact step_bus_next_or_stops hin ht
      | transfer v => exact step_transfer_next_or_stops hin ht
      | event e => exact step_event_next_or_stops hin ht
    · have hstop := Stops.timeReversed hin (BitVec.not_le.mp ht)
      exact .inr (hstop.step_eq.symm ▸ hstop)

/-- The stops of a step are those of the relation. -/
theorem step_eq_iff_stops {s : State} {o : Outcome} (ho : ∀ u, o ≠ .next u) :
    step s = o ↔ Stops s o := by
  refine ⟨fun h => ?_, Stops.step_eq⟩
  obtain ⟨u, hu⟩ | hstop := step_next_or_stops s
  · exact absurd (h.symm.trans hu) (ho u)
  · exact h ▸ hstop

theorem step_fault_iff {s : State} {r : Fault} : step s = .fault r ↔ Stops s (.fault r) :=
  step_eq_iff_stops fun _ h => by cases h

theorem step_refused_iff {s : State} {r : Refusal} : step s = .refused r ↔ Stops s (.refused r) :=
  step_eq_iff_stops fun _ h => by cases h

/-- Settles O54: each clause is one case of `Stops`. -/
theorem stepStopsExactlyOnTheNamedInputs : Obligations.StepStopsExactlyOnTheNamedInputs := by
  intro s
  refine ⟨⟨?_, ?_⟩, step_refused_iff.trans ⟨?_, ?_⟩, step_refused_iff.trans ⟨?_, ?_⟩,
    step_refused_iff.trans ⟨?_, ?_⟩, step_refused_iff.trans ⟨?_, ?_⟩, ?_⟩
  · rintro ⟨r, hr⟩
    cases step_fault_iff.mp hr with
    | addrOutOfRange hin ht hl hge => exact ⟨_, _, _, hin, ht, hl, hge⟩
  · rintro ⟨t, v, rest, hin, ht, hl, hge⟩
    exact ⟨_, (Stops.addrOutOfRange hin ht hl hge).step_eq⟩
  · intro h
    cases h with
    | timeReversed hin ht => exact ⟨_, _, _, hin, ht⟩
  · rintro ⟨t, inp, rest, hin, ht⟩
    exact .timeReversed hin ht
  · intro h
    cases h with
    | accessWidth hin ht hw => exact ⟨_, _, _, hin, ht, hw⟩
  · rintro ⟨t, a, rest, hin, ht, hw⟩
    exact .accessWidth hin ht hw
  · intro h
    cases h with
    | deadlineOverflow hin ht hkey hover => exact ⟨_, _, _, hin, ht, hkey, hover⟩
  · rintro ⟨t, w, rest, hin, ht, hkey, hover⟩
    exact .deadlineOverflow hin ht hkey hover
  · intro h
    cases h with
    | expiryNotEnabled hin ht hd => exact ⟨_, _, hin, ht, hd⟩
  · rintro ⟨t, rest, hin, ht, hd⟩
    exact .expiryNotEnabled hin ht hd
  · refine (step_next_or_stops s).imp_right fun hstop => ?_
    generalize step s = o at hstop
    cases hstop with
    | addrOutOfRange => exact .inl ⟨_, rfl⟩
    | _ => simp

end Sys2Proof.Machine
